-- ==== Sys2Proof/Word.lean ====
section
/-! DEFINITION. The widths of the block's values (R11, R12). Every value is unsigned; bit 0 is the least significant. -/

namespace Sys2Proof

/-- A stream or storage byte: 8 bits, unsigned (R11). -/
abbrev Byte := BitVec 8

/-- The checksum accumulator: 16 bits, unsigned (R11). -/
abbrev Acc := BitVec 16

/-- The opaque context: CTX_WIDTH = 24 bits (R10). -/
abbrev Ctx := BitVec 24

/-- A command word: 32 bits (R11, R77). -/
abbrev CmdWord := BitVec 32

end Sys2Proof
end

