-- ==== Sys2Proof/Syntax.lean ====
section
/-! DEFINITION. The command set (spec/opcode_table.json) and the assembler's lines (R88 to R90) as syntax. -/

namespace Sys2Proof

/-- The commands, one constructor per row of the opcode table. Operands are unsigned bit fields copied as they are (R84), so each has
exactly the width the encoding gives it and no term is ill formed. -/
inductive Instr where
  /-- INIT (R78, R160): `ctx` is the context to store. -/
  | init (ctx : Ctx)
  /-- FEED_BYTE (R79, R120): `data` is the stream byte. -/
  | feedByte (data : Byte)
  /-- CRC_FOLD (R80, R103): the accumulator and the byte to fold into it. -/
  | crcFold (acc : Acc) (data : Byte)
deriving DecidableEq, Repr

/-- What decode raises on a word that is no command (R82, R83). -/
inductive DecodeError where
  /-- OP is 0x0 or 0x4 .. 0xF (R81, R181). -/
  | illegalOpcode
  /-- OP is legal and a reserved bit is not 0 (R83, R181). -/
  | reservedField
deriving DecidableEq, Repr

/-- One line of command text (R88 to R90), its numbers as written, before any range check. -/
inductive AsmLine where
  /-- `INIT ctx` -/
  | init (ctx : Nat)
  /-- `FEED_BYTE b` -/
  | feedByte (b : Nat)
  /-- `CRC_FOLD acc, b` -/
  | crcFold (acc b : Nat)
  /-- `.word w`: raw data, the only way to give an illegal word. -/
  | word (w : Nat)
  /-- `FEEDS b0, b1, ...` (R89): one chunk, possibly of no bytes. -/
  | feeds (bs : List Nat)
  /-- `FRAME T, [p0, ...]` (R90). -/
  | frame (typ : Nat) (payload : List Nat)
  /-- A line that names a port event, `SINK: TAKE` or `RESET`; it assembles to no word (R85, R88). -/
  | portEvent
  /-- A blank line or one that holds a comment only. -/
  | blank
deriving DecidableEq, Repr

end Sys2Proof
end

