-- ==== Sys2Proof/WellFormed.lean ====
section
/-! DEFINITION. Which command words and which assembler lines are well formed: the opcode table's mask and match (R78 to R80) and the
operand ranges of R88 to R90. An `Instr` needs no check of its own: its operands have the encoding's widths (R84). -/

namespace Sys2Proof

/-- One row of spec/opcode_table.json. -/
structure OpcodeRow where
  mnemonic : String
  mask     : CmdWord
  pattern  : CmdWord
deriving DecidableEq, Repr

/-- spec/opcode_table.json: mnemonic, mask and match of each row (R78, R79, R80). -/
def opcodeTable : List OpcodeRow :=
  [⟨"INIT", 0xFF000000, 0x10000000⟩, ⟨"FEED_BYTE", 0xFFFFFF00, 0x20000000⟩, ⟨"CRC_FOLD", 0xFF000000, 0x30000000⟩]

/-- A word is of a row when its masked bits are the row's match. -/
def OpcodeRow.matchesWord (r : OpcodeRow) (w : CmdWord) : Bool := (w &&& r.mask) == r.pattern

/-- A word is well formed when it is of some row: "every word other than the three legal patterns faults" (R83). -/
def CmdWord.wellFormed (w : CmdWord) : Bool := opcodeTable.any (·.matchesWord w)

/-- A number that fits in a byte. -/
def isByte (n : Nat) : Bool := n < 256

/-- The operand ranges of R88, and for `FRAME` at most MAX_PAYLOAD payload bytes (R90). -/
def AsmLine.wellFormed (maxPayload : Byte) : AsmLine → Bool
  | .init ctx => ctx < 2 ^ 24
  | .feedByte b => isByte b
  | .crcFold acc b => acc < 2 ^ 16 && isByte b
  | .word w => w < 2 ^ 32
  | .feeds bs => bs.all isByte
  | .frame typ payload => isByte typ && payload.all isByte && payload.length ≤ maxPayload.toNat
  | .portEvent => true
  | .blank => true

end Sys2Proof
end

