-- ==== Sys2Proof/Decode.lean ====
section
/-! DEFINITION. The decoder of command words (R82), total on all 2^32 words and rejecting by name, and the encoder (R77 to R80, R88). -/

namespace Sys2Proof

/-- w[31:28], the opcode (R77). -/
def opField (w : CmdWord) : BitVec 4 := w.extractLsb' 28 4

/-- w[27:24], the reserved field of every word (R77). -/
def rsvField (w : CmdWord) : BitVec 4 := w.extractLsb' 24 4

/-- w[23:0], the operand of INIT (R78). -/
def ctxField (w : CmdWord) : Ctx := w.extractLsb' 0 24

/-- w[23:8]: ACC of CRC_FOLD (R80), reserved in FEED_BYTE (R79). -/
def accField (w : CmdWord) : Acc := w.extractLsb' 8 16

/-- w[7:0], the DATA operand (R79, R80). -/
def dataField (w : CmdWord) : Byte := w.extractLsb' 0 8

/-- `Decode(w)` of R82: the opcode is checked before the reserved fields (R182). -/
def decode (w : CmdWord) : Except DecodeError Instr :=
  if opField w = 0x1 then
    if rsvField w ≠ 0 then .error .reservedField else .ok (.init (ctxField w))
  else if opField w = 0x2 then
    if rsvField w ≠ 0 ∨ accField w ≠ 0 then .error .reservedField else .ok (.feedByte (dataField w))
  else if opField w = 0x3 then
    if rsvField w ≠ 0 then .error .reservedField else .ok (.crcFold (accField w) (dataField w))
  else .error .illegalOpcode

/-- The word of a command (R88): `0x10000000 | ctx`, `0x20000000 | b`, `0x30000000 | (acc << 8) | b`. -/
def encode : Instr → CmdWord
  | .init ctx => 0x10000000 ||| ctx.setWidth 32
  | .feedByte b => 0x20000000 ||| b.setWidth 32
  | .crcFold acc b => 0x30000000 ||| (acc.setWidth 32 <<< 8) ||| b.setWidth 32

/-- A word given as the opcode table numbers its bits, `nbits` of them; the bits above are 0. Command words are parallel values with no
byte order (R54), so the number is the word. -/
def tableWord (nbits w : Nat) : CmdWord := BitVec.ofNat 32 (w % 2 ^ nbits)

/-- The command the decoder reads from such a word, none where it rejects the word. -/
def decodeTableWord (nbits w : Nat) : Option Instr :=
  match decode (tableWord nbits w) with
  | .ok i => some i
  | .error _ => none

end Sys2Proof
end

