-- ==== Sys2Proof/Config.lean ====
section
/-! DEFINITION. The FREE VALUES of the model: constants with no body, so nothing can be proved of what they are. Each is applied to the
draw index of the step (`State.draws`) and to what it may depend on. Log entries 7, 8, 9, and 22 for
several instances. -/

namespace Sys2Proof.Config

/-- The byte at a storage offset after a RESET event: "unspecified" (R37, R164, U1). Arguments: draw index, storage offset. -/
opaque freeStorageByte : Nat → Nat → Byte

/-- CTX after a RESET event: "no value" (R37, R164, U2). Argument: draw index. -/
opaque freeCtx : Nat → Ctx

/-- dlv_data when dlv_addr ≥ PKT.LEN, or while DLV_PEND = 0: "any value" (R162, U3, U4). Arguments: draw index, dlv_addr. -/
opaque freeDlvData : Nat → Byte → Byte

/-- dlv_ctx while DLV_PEND = 0: "any value" (R162, U4). Argument: draw index. -/
opaque freeDlvCtx : Nat → Ctx

/-- dlv_sop, dlv_type, dlv_len, dlv_cklo and dlv_ckhi while DLV_PEND = 0: "any value" (R162, U4).
Arguments: draw index, the storage offset of the field. -/
opaque freeDlvField : Nat → Nat → Byte

/-- rsp_crc while rsp_valid = 0: the spec gives it no value (R86). Argument: draw index. -/
opaque freeRspCrc : Nat → Acc

end Sys2Proof.Config
end

