-- ==== Sys2Proof/Machine/Params.lean ====
section
/-! DEFINITION. The parameters and named constants of 00_scope.md §4. Every other file reads them by name (R7). -/

namespace Sys2Proof.Machine

/-- START_MARKER, the start-of-frame sentinel byte (R7). Its literal is unaudited by the source: log entry 4. -/
def startMarker : Byte := 0xA1

/-- SEED, the checksum's initial accumulator (R8). Its literal is unaudited by the source: log entry 4. -/
def seed : Acc := 0xFFFF

/-- HEADER_SIZE: start marker, type, length, checksum low byte, checksum high byte (R9). -/
def headerSize : Nat := 5

/-- The default of the parameter MAX_PAYLOAD (R6). The parameter itself is `State.maxPayload`: log entry 3. -/
def defaultMaxPayload : Byte := 250

end Sys2Proof.Machine
end

