-- ==== Sys2Proof/Machine/State.lean ====
section
/-! DEFINITION. The state: the block's own record of R20 (`Block`), and beside it the agents around the block, the events they saw, and
the model's parameter and draw counter, all plain data. -/

namespace Sys2Proof.Machine

/-- The parse states of R21, with encodings 0 to 6 in this order. `code7` is the encoding no rule writes (R38). -/
inductive PState where
  | empty | gotStart | gotType | gotLength | gotChecksumLo | receivingPayload | gotComplete | code7
deriving DecidableEq, Repr

/-- The values of FAULT (R31, R181), with codes 0 to 3 in this order. -/
inductive FaultCode where
  | none | illegalOpcode | reservedField | notInitialized
deriving DecidableEq, Repr

/-- A memory: (offset, byte) cells, offsets strictly rising, no cell holding what an unlisted offset reads as. -/
abbrev Memory := List Host.Cell

/-- The block's state (R20): "Nothing else is architectural state". The PKT fields live in the packet storage `mem` (R50). -/
structure Block where
  /-- PSTATE (R21). -/
  pstate  : PState
  /-- CNT (R22). -/
  cnt     : Byte
  /-- PKT, the packet storage: offsets 0 to 4 the header, 5 + i the payload (R50). -/
  mem     : Memory
  /-- CTX (R28). -/
  ctx     : Ctx
  /-- INITD (R29). -/
  initd   : Bool
  /-- DLV_PEND (R30). -/
  dlvPend : Bool
  /-- FAULT (R31). -/
  fault   : FaultCode
deriving DecidableEq, Repr

/-- The delivery record (R87, R161). -/
structure Delivery where
  ctx     : Ctx
  sop     : Byte
  typ     : Byte
  len     : Byte
  cklo    : Byte
  ckhi    : Byte
  payload : List Byte
deriving DecidableEq, Repr

/-- What a step emits (R13). -/
inductive Event where
  /-- CrcResult(v) on the response port (R86, R103). -/
  | crcResult (v : Acc)
  /-- Delivery(d), the record the sink takes (R161). -/
  | delivery (d : Delivery)
deriving DecidableEq, Repr

/-- The input levels SINK and RESET drive (R76). -/
structure Pins where
  dlvReady : Bool
  dlvAddr  : Byte
  rst      : Bool
deriving DecidableEq, Repr

/-- One step of one of the four agents of R14. -/
inductive Move where
  /-- BLOCK takes a transaction, or waits. -/
  | block
  /-- HOST puts one more command word on offer; it may be any word (R195). -/
  | host (w : CmdWord)
  /-- SINK drives dlv_ready and dlv_addr, and takes a pending delivery if it asserts dlv_ready (R161, R162). -/
  | sink (ready : Bool) (addr : Byte)
  /-- RESET drives rst, and asserting it resets (R164). -/
  | reset (level : Bool)
deriving DecidableEq, Repr

/-- The whole state that one step reads and writes. -/
structure State where
  /-- The block's own state (R20). -/
  blk        : Block
  /-- The parameter MAX_PAYLOAD (R6); no step writes it. Log entry 3. -/
  maxPayload : Byte
  /-- HOST: the command words on offer, oldest first; the head is cmd_word, and cmd_valid = 1 when there is one (R76, R165). -/
  host       : List CmdWord
  /-- SINK and RESET: the levels of their pins. -/
  pins       : Pins
  /-- Which agent makes each of the coming steps (R14); when it runs out BLOCK makes them. Log entry 1. -/
  sched      : List Move
  /-- The response port in the step just made: rsp_valid = 1 and rsp_crc when it is `some` (R86). Log entry 10. -/
  rsp        : Option Acc
  /-- The events emitted so far, oldest first. Log entry 10. -/
  events     : List Event
  /-- The index of this step's free values, the model's own field. Log entry 9. -/
  draws      : Nat
deriving DecidableEq, Repr

/-- Why a step stops. The command faults of R181 are not here: they are next states with FAULT written (R183). -/
inductive Fault where
  /-- FEED_BYTE met PSTATE encoding 7, "a model fault" (R38, U5). Raised by `execFeedByte`. Safe: no rule writes that encoding. -/
  | pstateCode7
  /-- An access at a storage offset of HEADER_SIZE + MAX_PAYLOAD or more, which "is never formed by any rule" (R50). Raised by
  `execFeedByte` and `take` in states no run reaches. Safe. -/
  | noSuchOffset
deriving DecidableEq, Repr

/-- Why a step refuses. No meaning raises it. -/
inductive Refusal where
  /-- The instruction has no meaning yet. Raised by no arm. Safe. -/
  | notModelled (mnemonic : String)
deriving DecidableEq, Repr

/-- What every meaning answers. -/
abbrev Result := Host.Outcome State Fault Refusal

/-- The block right after reset (R37, R210). The PKT bytes and CTX, which the spec leaves without a value, are 0: DESIGN CHOICE, log
entries 5 and 6. -/
def Block.reset : Block :=
  { pstate := .empty, cnt := 0, mem := [], ctx := 0, initd := false, dlvPend := false, fault := .none }

/-- The machine right after reset: the block as R37 says, MAX_PAYLOAD at its default (R6), nothing offered and every pin low (R211).
DESIGN CHOICE for what stands around the block: log entries 1, 2, 9 and 10. -/
def State.reset : State :=
  { blk := Block.reset, maxPayload := defaultMaxPayload, host := [],
    pins := { dlvReady := false, dlvAddr := 0, rst := false }, sched := [], rsp := .none, events := [], draws := 0 }

end Sys2Proof.Machine
end

