-- ==== Sys2Proof/Machine/Ops.lean ====
section
/-! DEFINITION. The named operations over the packet storage and the block's fields, the entry into a fault (R183) and the one way out
of it, RESET (R164, R185). -/

namespace Sys2Proof.Machine

/-! ### The packet storage as data -/

/-- What an unlisted offset reads as: the 0 that Clear() and INIT leave in every byte (R134, R160). Log entry 20. -/
def Memory.unlisted : Byte := 0

/-- The byte at an offset. -/
def Memory.read : Memory → Nat → Byte
  | [], _ => Memory.unlisted
  | c :: m, a => if a = c.1 then c.2 else Memory.read m a

/-- The memory with one byte replaced, in canonical form: a byte that equals the unlisted one is not listed. -/
def Memory.write : Memory → Nat → Byte → Memory
  | [], a, v => if v = Memory.unlisted then [] else [(a, v)]
  | c :: m, a, v =>
    if a < c.1 then (if v = Memory.unlisted then c :: m else (a, v) :: c :: m)
    else if a = c.1 then (if v = Memory.unlisted then m else (a, v) :: m)
    else c :: Memory.write m a v

/-- The canonical form: offsets strictly rising, no cell equal to the unlisted byte. -/
def Memory.wf : Memory → Bool
  | [] => true
  | c :: m => c.2 != Memory.unlisted && m.all (fun d => c.1 < d.1) && Memory.wf m

/-- Every listed offset lies below `n`. -/
def Memory.within (n : Nat) (m : Memory) : Bool := m.all (fun c => c.1 < n)

/-- The memory in which every byte is 0 (R134). -/
def Memory.zeroed : Memory := []

/-- The memory whose bytes at the offsets below `n` are those of `f`. -/
def Memory.ofBytes (f : Nat → Byte) : Nat → Memory
  | 0 => Memory.zeroed
  | n + 1 => Memory.write (Memory.ofBytes f n) n (f n)

/-! ### The packet storage of the block -/

/-- The storage's size: HEADER_SIZE + MAX_PAYLOAD bytes (R50). -/
def State.storageSize (s : State) : Nat := headerSize + s.maxPayload.toNat

/-- The offset exists (R50). -/
def State.hasOffset (s : State) (off : Nat) : Bool := off < s.storageSize

/-- `MemRead(off, 1)` (R13). -/
def State.memRead (s : State) (off : Nat) : Byte := s.blk.mem.read off

/-- `MemWrite(off, 1, v)` (R13). -/
def State.memWrite (s : State) (off : Nat) (v : Byte) : State :=
  { s with blk := { s.blk with mem := s.blk.mem.write off v } }

/-! ### The block's fields -/

/-- PSTATE <- p. -/
def State.setPState (s : State) (p : PState) : State := { s with blk := { s.blk with pstate := p } }

/-- CNT <- c. -/
def State.setCnt (s : State) (c : Byte) : State := { s with blk := { s.blk with cnt := c } }

/-- CTX <- c. -/
def State.setCtx (s : State) (c : Ctx) : State := { s with blk := { s.blk with ctx := c } }

/-- INITD <- v. -/
def State.setInitd (s : State) (v : Bool) : State := { s with blk := { s.blk with initd := v } }

/-- DLV_PEND <- v. -/
def State.setDlvPend (s : State) (v : Bool) : State := { s with blk := { s.blk with dlvPend := v } }

/-- `emit e` (R13): the observers' record grows by one event. -/
def State.emit (s : State) (e : Event) : State := { s with events := s.events ++ [e] }

/-- rsp_valid = 1 and rsp_crc = v in this step (R86). -/
def State.respond (s : State) (v : Acc) : State := { s with rsp := some v }

/-- `Clear()` (R134): PSTATE, CNT and every storage byte; CTX, INITD, DLV_PEND and FAULT unchanged. -/
def State.clear (s : State) : State :=
  { s with blk := { s.blk with pstate := .empty, cnt := 0, mem := Memory.zeroed } }

/-! ### Faults and RESET -/

/-- `raise Fault(code)` (R183): FAULT records the code; no other field changes and nothing is emitted. -/
def State.raiseFault (s : State) (code : FaultCode) : State := { s with blk := { s.blk with fault := code } }

/-- RESET (R164): every field of the block at its reset value, and a pending delivery gone without an event. The PKT bytes and CTX are
free values (U1, U2, log entry 7), drawn by the State's own counter: DESIGN CHOICE, two instances with equal counters draw
the same values (log entry 22). The only way out of a fault (R185): there is no return command. -/
def State.resetBlock (s : State) : State :=
  { s with blk :=
      { pstate := .empty, cnt := 0, mem := Memory.ofBytes (Config.freeStorageByte s.draws) s.storageSize,
        ctx := Config.freeCtx s.draws, initd := false, dlvPend := false, fault := .none } }

end Sys2Proof.Machine
end

