-- ==== Sys2Proof/Machine/Operands.lean ====
section
/-! DEFINITION. The named fields of the packet storage (R20, R50) as views of it, the received checksum (R26), and the delivery record
(R87). The operands of the command words are bit fields and stand in Decode.lean (R84). -/

namespace Sys2Proof.Machine

/-- Storage offset of PKT.SOP (R50). -/
def sopOffset : Nat := 0

/-- Storage offset of PKT.TYPE (R50). -/
def typeOffset : Nat := 1

/-- Storage offset of PKT.LEN (R50). -/
def lenOffset : Nat := 2

/-- Storage offset of PKT.CKLO (R50). -/
def ckloOffset : Nat := 3

/-- Storage offset of PKT.CKHI (R50). -/
def ckhiOffset : Nat := 4

/-- Storage offset of PKT.PAYLOAD[i] (R50). -/
def payloadOffset (i : Nat) : Nat := headerSize + i

/-- PKT.SOP (R23). -/
def Block.sop (b : Block) : Byte := b.mem.read sopOffset

/-- PKT.TYPE (R24). -/
def Block.typ (b : Block) : Byte := b.mem.read typeOffset

/-- PKT.LEN (R25). -/
def Block.len (b : Block) : Byte := b.mem.read lenOffset

/-- PKT.CKLO (R26). -/
def Block.cklo (b : Block) : Byte := b.mem.read ckloOffset

/-- PKT.CKHI (R26). -/
def Block.ckhi (b : Block) : Byte := b.mem.read ckhiOffset

/-- PKT.PAYLOAD[i] (R27). -/
def Block.payloadByte (b : Block) (i : Nat) : Byte := b.mem.read (payloadOffset i)

/-- PKT.PAYLOAD[0 .. n-1]. -/
def Block.payload (b : Block) (n : Nat) : List Byte := (List.range n).map b.payloadByte

/-- CK = PKT.CKHI ∥ PKT.CKLO, the received checksum (R26, R53). -/
def Block.ck (b : Block) : Acc := b.ckhi ++ b.cklo

/-- The delivery record (R87, R161). -/
def Block.delivery (b : Block) : Delivery :=
  { ctx := b.ctx, sop := b.sop, typ := b.typ, len := b.len, cklo := b.cklo, ckhi := b.ckhi, payload := b.payload b.len.toNat }

/-- PKT.PAYLOAD[0 .. PKT.LEN-1] lies inside the storage (R25, R50); it does in every state a run reaches (R35). -/
def State.payloadInStorage (s : State) : Bool := payloadOffset s.blk.len.toNat ≤ s.storageSize

end Sys2Proof.Machine
end

