-- ==== Sys2Proof/Machine/Crc.lean ====
section
/-! DEFINITION. The Checksum Engine (40_crc_engine.md) and the meaning of CRC_FOLD (R103). One `crcFold` serves the command, the
receiver's verification and the frame encoding (R104). -/

namespace Sys2Proof.Machine

/-- `CRCFold(b, acc)` (R100), step by step; the `<< 3` of step 3 is in 16 bits (D23). -/
def crcFold (b : Byte) (acc : Acc) : Acc :=
  let t1 : Byte := b ^^^ acc.extractLsb' 0 8
  let t2 : Byte := t1 ^^^ (t1 <<< 4)
  ((t2.setWidth 16 <<< 8) ||| (acc.extractLsb' 8 8).setWidth 16) ^^^ (t2 >>> 4).setWidth 16 ^^^ (t2.setWidth 16 <<< 3)

/-- `CRC16(seed, s)` (R101): the bytes folded from left to right, nothing applied after the last fold (R71). -/
def crc16 : Acc → List Byte → Acc
  | acc, [] => acc
  | acc, b :: bs => crc16 (crcFold b acc) bs

/-- One shift of the bit-serial form (R102). -/
def bitSerialShift (a : Acc) : Acc := if a.getLsbD 0 then (a >>> 1) ^^^ 0x8408 else a >>> 1

/-- `repeat n times` of R102. -/
def bitSerialRepeat : Nat → Acc → Acc
  | 0, a => a
  | n + 1, a => bitSerialRepeat n (bitSerialShift a)

/-- `BitSerial(b, acc)` (R102). -/
def bitSerial (b : Byte) (acc : Acc) : Acc := bitSerialRepeat 8 (acc ^^^ b.setWidth 16)

/-- The verification value CRC16(SEED, [PKT.TYPE, PKT.LEN] ++ PKT.PAYLOAD[0 .. PKT.LEN-1]) (R131). -/
def Block.calc (b : Block) : Acc := crc16 seed ([b.typ, b.len] ++ b.payload b.len.toNat)

/-- CRC_FOLD (R103): the result goes to the response port; no field of the block is read or written. -/
def execCrcFold (acc : Acc) (data : Byte) (s : State) : Result :=
  let v := crcFold data acc
  .next ((s.respond v).emit (.crcResult v))

end Sys2Proof.Machine
end

