-- ==== Sys2Proof/Machine/Flags.lean ====
section
/-! DEFINITION. The status bits and what is computed from them: cmd_ready (R165), TAKE's enabledness (R161), and the numeric codes of
PSTATE and FAULT (R21, R31). The block has no arithmetic flags (R33). -/

namespace Sys2Proof.Machine

/-- The 3-bit encoding of PSTATE (R21). -/
def PState.code : PState → BitVec 3
  | .empty => 0
  | .gotStart => 1
  | .gotType => 2
  | .gotLength => 3
  | .gotChecksumLo => 4
  | .receivingPayload => 5
  | .gotComplete => 6
  | .code7 => 7

/-- The 2-bit code of FAULT, which is err[1:0] (R31, R181). -/
def FaultCode.code : FaultCode → BitVec 2
  | .none => 0
  | .illegalOpcode => 1
  | .reservedField => 2
  | .notInitialized => 3

/-- cmd_ready = (DLV_PEND == 0) and (FAULT == 0) (R165). -/
def Block.cmdReady (b : Block) : Bool := !b.dlvPend && b.fault == .none

/-- TAKE is enabled exactly when DLV_PEND = 1 and SINK asserts dlv_ready (R161). -/
def State.takeEnabled (s : State) : Bool := s.blk.dlvPend && s.pins.dlvReady

/-- The fault a decode error raises (R82, R181). -/
def faultOfDecode : DecodeError → FaultCode
  | .illegalOpcode => .illegalOpcode
  | .reservedField => .reservedField

end Sys2Proof.Machine
end

