-- ==== Sys2Proof/Machine/Receiver.lean ====
section
/-! DEFINITION. The Receiver State Machine: the completion procedure (R130 to R133), the transition table row by row (R121 to R129), and
the meaning of FEED_BYTE (R120). -/

namespace Sys2Proof.Machine

/-- `Present()` (R132): CNT and PKT stay until TAKE. -/
def State.present (s : State) : State := (s.setPState .gotComplete).setDlvPend true

/-- `Complete()` (R130): present on a checksum match, discard silently on a mismatch (R133). -/
def State.complete (s : State) : State := if s.blk.calc = s.blk.ck then s.present else s.clear

/-- EMPTY (R121, R122): START_MARKER starts a frame, any other byte is ignored. -/
def feedEmpty (b : Byte) (s : State) : Result :=
  if b = startMarker then .next ((s.memWrite sopOffset b).setPState .gotStart) else .next s

/-- GOT_START (R123): any byte is the type. -/
def feedGotStart (b : Byte) (s : State) : Result := .next ((s.memWrite typeOffset b).setPState .gotType)

/-- GOT_TYPE (R124, R125): a byte up to MAX_PAYLOAD is the length; a greater one discards the frame and is not examined again. -/
def feedGotType (b : Byte) (s : State) : Result :=
  if b ≤ s.maxPayload then .next (((s.memWrite lenOffset b).setCnt 0).setPState .gotLength) else .next s.clear

/-- GOT_LENGTH (R126): any byte is the checksum low byte. -/
def feedGotLength (b : Byte) (s : State) : Result := .next ((s.memWrite ckloOffset b).setPState .gotChecksumLo)

/-- GOT_CHECKSUM_LO (R127): any byte is the checksum high byte; a frame of length 0 is complete with it. -/
def feedGotChecksumLo (b : Byte) (s : State) : Result :=
  let s1 := s.memWrite ckhiOffset b
  if s1.blk.len = 0 then .next s1.complete else .next (s1.setPState .receivingPayload)

/-- RECEIVING_PAYLOAD (R128): any byte is PAYLOAD[CNT]; the incremented CNT is compared with LEN. An offset beyond the storage, which no
state that a run reaches forms, is a model fault (R50, log entry 12). -/
def feedReceivingPayload (b : Byte) (s : State) : Result :=
  let off := payloadOffset s.blk.cnt.toNat
  if s.hasOffset off then
    let s1 := (s.memWrite off b).setCnt (s.blk.cnt + 1)
    if s1.blk.cnt = s1.blk.len then .next s1.complete else .next s1
  else .fault .noSuchOffset

/-- GOT_COMPLETE (R129): never met, since commands are held there; for totality the EMPTY rows apply. -/
def feedGotComplete (b : Byte) (s : State) : Result := feedEmpty b s

/-- FEED_BYTE (R120): NOT_INITIALIZED while INITD = 0, else the row of the transition table that PSTATE selects. -/
def execFeedByte (b : Byte) (s : State) : Result :=
  if s.blk.initd then
    match s.blk.pstate with
    | .empty => feedEmpty b s
    | .gotStart => feedGotStart b s
    | .gotType => feedGotType b s
    | .gotLength => feedGotLength b s
    | .gotChecksumLo => feedGotChecksumLo b s
    | .receivingPayload => feedReceivingPayload b s
    | .gotComplete => feedGotComplete b s
    | .code7 => .fault .pstateCode7
  else .next (s.raiseFault .notInitialized)

end Sys2Proof.Machine
end

