-- ==== Sys2Proof/Machine/Control.lean ====
section
/-! DEFINITION. The meaning of INIT (R160), the port event TAKE (R161), and the atomic feed of R137. -/

namespace Sys2Proof.Machine

/-- INIT (R160): Clear(), then CTX and INITD. -/
def execInit (ctx : Ctx) (s : State) : Result := .next ((s.clear.setCtx ctx).setInitd true)

/-- TAKE (R161): the record is emitted, DLV_PEND falls, and the receiver is cleared. A record longer than the storage, which no state
that a run reaches holds, is a model fault (R50, log entry 12). -/
def take (s : State) : Result :=
  if s.payloadInStorage then .next (((s.emit (.delivery s.blk.delivery)).setDlvPend false).clear)
  else .fault .noSuchOffset

/-- `feed(S, b)` of R137: FEED_BYTE and, when it presents a delivery, the sink's TAKE at once. -/
def feed (b : Byte) (s : State) : Result :=
  match execFeedByte b s with
  | .next s1 => if s1.blk.dlvPend then take s1 else .next s1
  | r => r

/-- A chunk fed byte by byte through `feed` (R89, R136); the empty chunk performs no step (R166). -/
def feedChunk : List Byte → State → Result
  | [], s => .next s
  | b :: bs, s =>
    match feed b s with
    | .next s1 => feedChunk bs s1
    | r => r

end Sys2Proof.Machine
end

