-- ==== Sys2Proof/Machine/Dispatch.lean ====
section
/-! DEFINITION. The meaning of each command, one arm per constructor: what the block does once it has accepted and decoded the word. -/

namespace Sys2Proof.Machine

def exec (i : Instr) (s : State) : Host.Outcome State Fault Refusal :=
  match i with
  | .init ctx => Sys2Proof.Machine.execInit ctx s
  | .feedByte data => Sys2Proof.Machine.execFeedByte data s
  | .crcFold acc data => Sys2Proof.Machine.execCrcFold acc data s

end Sys2Proof.Machine
end

