-- ==== Sys2Proof/Machine/Ports.lean ====
section
/-! DEFINITION. The ports (R76): what HOST, SINK and RESET drive on their sides of them, whose turn it is (R14), the word the block accepts
(R165), and the outputs as functions of the state (R86, R87, R162). -/

namespace Sys2Proof.Machine

/-- The agent whose turn it is: the head of the schedule, BLOCK when there is none (log entry 1). -/
def State.nextMove (s : State) : Move := s.sched.headD .block

/-- A step begins: the schedule moves on, the response port falls idle, and the step gets free values of its own. -/
def State.beginStep (s : State) : State := { s with sched := s.sched.tail, rsp := none, draws := s.draws + 1 }

/-- HOST puts one more word on offer, behind those that wait (that words queue: DESIGN CHOICE, log entry 1). It never withdraws one (R165). -/
def State.offer (s : State) (w : CmdWord) : State := { s with host := s.host ++ [w] }

/-- SINK drives dlv_ready and dlv_addr (R76). -/
def State.driveSink (s : State) (ready : Bool) (addr : Byte) : State :=
  { s with pins := { s.pins with dlvReady := ready, dlvAddr := addr } }

/-- RESET drives rst (R76). -/
def State.driveReset (s : State) (level : Bool) : State := { s with pins := { s.pins with rst := level } }

/-- The accepted word leaves the command port (R76, R183). -/
def State.consumeWord (s : State) : State := { s with host := s.host.tail }

/-- The output levels of R76. -/
structure Outputs where
  cmdReady : Bool
  rspValid : Bool
  rspCrc   : Acc
  dlvValid : Bool
  dlvCtx   : Ctx
  dlvSop   : Byte
  dlvType  : Byte
  dlvLen   : Byte
  dlvCklo  : Byte
  dlvCkhi  : Byte
  dlvData  : Byte
  err      : BitVec 2
deriving DecidableEq, Repr

/-- A header output of the delivery port: the storage byte while DLV_PEND = 1, otherwise a free value (R162, U4). -/
def State.dlvField (s : State) (off : Nat) : Byte :=
  if s.blk.dlvPend then s.memRead off else Config.freeDlvField s.draws off

/-- dlv_data (R162): PAYLOAD[dlv_addr] while DLV_PEND = 1 and dlv_addr < LEN, otherwise a free value (U3, U4). An index at or beyond
MAX_PAYLOAD names no storage byte (R50). -/
def State.dlvData (s : State) (addr : Byte) : Byte :=
  if s.blk.dlvPend && decide (addr < s.blk.len) && s.hasOffset (payloadOffset addr.toNat) then s.blk.payloadByte addr.toNat
  else Config.freeDlvData s.draws addr

/-- The output levels in a state, with dlv_addr as SINK drives it. The delivery port shows the record while DLV_PEND = 1 (R162, R163), also
where dlv_ready already stands asserted and BLOCK has yet to make its TAKE: DESIGN CHOICE beside R215, log entry 24. -/
def State.outputs (s : State) : Outputs :=
  { cmdReady := s.blk.cmdReady
    rspValid := s.rsp.isSome
    rspCrc := s.rsp.getD (Config.freeRspCrc s.draws)
    dlvValid := s.blk.dlvPend
    dlvCtx := if s.blk.dlvPend then s.blk.ctx else Config.freeDlvCtx s.draws
    dlvSop := s.dlvField sopOffset
    dlvType := s.dlvField typeOffset
    dlvLen := s.dlvField lenOffset
    dlvCklo := s.dlvField ckloOffset
    dlvCkhi := s.dlvField ckhiOffset
    dlvData := s.dlvData s.pins.dlvAddr
    err := s.blk.fault.code }

/-- The state in which the very next step accepts exactly the word `w`: HOST offers it alone, no other agent is scheduled, rst is
low, and cmd_ready = 1 (R165). Log entry 2. -/
def State.offerOnly (s : State) (w : CmdWord) : State :=
  { s with host := [w], sched := [], pins := { s.pins with rst := false }, blk := { s.blk with dlvPend := false, fault := .none } }

end Sys2Proof.Machine
end

