-- ==== Sys2Proof/Machine/Accept.lean ====
section
/-! DEFINITION. An accepted word (R82): it is decoded and performed, or it raises the decode fault (R183); and the step of each of the four
agents of R14. -/

namespace Sys2Proof.Machine

/-- The block performs an accepted word: decode faults come before the command's effect (R182, R188). -/
def performWord (w : CmdWord) (s : State) : Result :=
  match decode w with
  | .ok i => exec i s
  | .error e => .next (s.raiseFault (faultOfDecode e))

/-- The transaction of a step: RESET in every step with rst = 1, before anything else (R164, R188, R195), otherwise `f`. That a standing rst = 1
resets in the step of every agent: DEDUCED, log entry 23. -/
def State.unlessReset (s : State) (f : State → Result) : Result := if s.pins.rst then .next s.resetBlock else f s

/-- TAKE when it is enabled (R161), else nothing. -/
def State.takeIfEnabled (s : State) : Result := if s.takeEnabled then take s else .next s

/-- What BLOCK does while rst = 0 (R161, R165): TAKE while SINK's dlv_ready stands, else the oldest word on offer if cmd_ready = 1, else
nothing (R194). A TAKE and a command are never enabled together (R188). -/
def State.transact (s : State) : Result :=
  if s.takeEnabled then take s
  else match s.host with
    | [] => .next s
    | w :: _ => if s.blk.cmdReady then performWord w s.consumeWord else .next s

/-- BLOCK's step (R14, R56, R188). -/
def blockStep (s : State) : Result := s.unlessReset State.transact

/-- HOST's step (R14, R195): one more word on offer. -/
def hostStep (w : CmdWord) (s : State) : Result := (s.offer w).unlessReset .next

/-- SINK's step (R14, R165, R195): with dlv_ready asserted it takes a pending delivery (R161); with dlv_ready low a changed dlv_addr is a read
of the delivery port, without a side effect (R162). -/
def sinkStep (ready : Bool) (addr : Byte) (s : State) : Result := (s.driveSink ready addr).unlessReset State.takeIfEnabled

/-- RESET's step (R14, R195): asserting rst resets the block at once (R164); releasing it changes nothing else. -/
def resetStep (level : Bool) (s : State) : Result := (s.driveReset level).unlessReset .next

/-- The step of one agent (R14). -/
def agentStep (m : Move) (s : State) : Result :=
  match m with
  | .block => blockStep s
  | .host w => hostStep w s
  | .sink ready addr => sinkStep ready addr s
  | .reset level => resetStep level s

end Sys2Proof.Machine
end

