-- ==== Sys2Proof/Machine/Step.lean ====
section
/-! DEFINITION. One step: one agent of R14 makes its own step. -/

namespace Sys2Proof.Machine

/-- One step of the machine: that of the agent whose turn it is. -/
def step (s : State) : Host.Outcome State Fault Refusal := agentStep s.nextMove s.beginStep

/-- `s` with a word of the opcode table on the command port, so that the next step accepts exactly it. Log entry 2. -/
def State.withFetchWord (s : State) (nbits w : Nat) : State := s.offerOnly (tableWord nbits w)

end Sys2Proof.Machine
end

