-- ==== Sys2Proof/Machine/Frame.lean ====
section
/-! DEFINITION. The wire frame (R70 to R75): the encoding of the block's input stream. -/

namespace Sys2Proof.Machine

/-- The five header bytes of a frame with type `t`, length byte `n` and checksum `c`, low byte first (R53, R70). -/
def frameHeader (t n : Byte) (c : Acc) : List Byte := [startMarker, t, n, c.extractLsb' 0 8, c.extractLsb' 8 8]

/-- The checksum of a frame: CRC16(SEED, [type, length] ++ payload) (R70, R71). -/
def frameChecksum (t : Byte) (p : List Byte) : Acc := crc16 seed ([t, BitVec.ofNat 8 p.length] ++ p)

/-- `FrameBytes(T, P)` (R73); none when |P| > MAX_PAYLOAD, where it is undefined (log entry 15). -/
def frameBytes (maxPayload t : Byte) (p : List Byte) : Option (List Byte) :=
  if p.length ≤ maxPayload.toNat then some (frameHeader t (BitVec.ofNat 8 p.length) (frameChecksum t p) ++ p) else none

/-- A well-formed frame (R74): marker, valid length byte, total length 5 + f[2], checksum. -/
def isFrame (maxPayload : Byte) : List Byte → Bool
  | m :: t :: n :: lo :: hi :: p =>
    m == startMarker && decide (n ≤ maxPayload) && p.length == n.toNat && hi ++ lo == crc16 seed ([t, n] ++ p)
  | _ => false

end Sys2Proof.Machine
end

