-- ==== Sys2Proof/Machine/Assembler.lean ====
section
/-! DEFINITION. The assembler of R88 to R90: a line of text to an `AsmLine`, and a well-formed `AsmLine` to its command words. Log entry 17
for what the rules leave open about the text. -/

namespace Sys2Proof.Machine

/-- The FEED_BYTE word of each byte (R79, R89). -/
def feedWords (bs : List Byte) : List CmdWord := bs.map fun b => encode (.feedByte b)

/-- The words of a line whose operands are in range (R88 to R90). -/
def asmWords (maxPayload : Byte) : AsmLine → List CmdWord
  | .init ctx => [encode (.init (BitVec.ofNat 24 ctx))]
  | .feedByte b => [encode (.feedByte (BitVec.ofNat 8 b))]
  | .crcFold acc b => [encode (.crcFold (BitVec.ofNat 16 acc) (BitVec.ofNat 8 b))]
  | .word w => [BitVec.ofNat 32 w]
  | .feeds bs => feedWords (bs.map (BitVec.ofNat 8))
  | .frame t p => feedWords ((frameBytes maxPayload (BitVec.ofNat 8 t) (p.map (BitVec.ofNat 8))).getD [])
  | .portEvent => []
  | .blank => []

/-- The words of a line; the assembler refuses an operand out of range and a FRAME longer than MAX_PAYLOAD (R88, R90). -/
def assemble (maxPayload : Byte) (l : AsmLine) : Option (List CmdWord) :=
  if l.wellFormed maxPayload then some (asmWords maxPayload l) else none

/-- The words of a program, line after line; refused when any line is. -/
def assembleProgram (maxPayload : Byte) : List AsmLine → Option (List CmdWord)
  | [] => some []
  | l :: ls =>
    match assemble maxPayload l, assembleProgram maxPayload ls with
    | some ws, some rest => some (ws ++ rest)
    | _, _ => none

/-! ### Text -/

/-- Why a line of text is refused before its operands' ranges are looked at (R88). -/
inductive AsmError where
  /-- The mnemonic is none of the assembler's. -/
  | unknownMnemonic
  /-- The operands are not numbers separated by commas, or their count is wrong. -/
  | badOperands
deriving DecidableEq, Repr

def isBlankChar (c : Char) : Bool := c == ' ' || c == '\t'

/-- The text without the blanks around it. -/
def trimBlanks (cs : List Char) : List Char := ((cs.dropWhile isBlankChar).reverse.dropWhile isBlankChar).reverse

/-- The text before the comment (R88). -/
def stripComment (cs : List Char) : List Char := cs.takeWhile (· != ';')

/-- The value of a digit in a base up to 16. -/
def digitValue (base : Nat) (c : Char) : Option Nat :=
  let v :=
    if '0' ≤ c ∧ c ≤ '9' then some (c.toNat - '0'.toNat)
    else if 'a' ≤ c ∧ c ≤ 'f' then some (c.toNat - 'a'.toNat + 10)
    else if 'A' ≤ c ∧ c ≤ 'F' then some (c.toNat - 'A'.toNat + 10)
    else none
  match v with
  | some d => if d < base then some d else none
  | none => none

/-- The value of a run of digits, after those already read. -/
def digitsValue (base : Nat) : Nat → List Char → Option Nat
  | n, [] => some n
  | n, c :: cs =>
    match digitValue base c with
    | some d => digitsValue base (n * base + d) cs
    | none => none

/-- A number: decimal, or hexadecimal after `0x` (R88). -/
def parseNumber : List Char → Option Nat
  | [] => none
  | '0' :: 'x' :: [] => none
  | '0' :: 'x' :: ds => digitsValue 16 0 ds
  | ds => digitsValue 10 0 ds

/-- The pieces between commas. -/
def splitCommas : List Char → List (List Char)
  | [] => [[]]
  | ',' :: cs => [] :: splitCommas cs
  | c :: cs =>
    match splitCommas cs with
    | [] => [[c]]
    | p :: ps => (c :: p) :: ps

/-- Every piece as a number, none if one is not. -/
def parseNumbers : List (List Char) → Option (List Nat)
  | [] => some []
  | p :: ps =>
    match parseNumber (trimBlanks p), parseNumbers ps with
    | some n, some ns => some (n :: ns)
    | _, _ => none

/-- The operands of a line: numbers separated by commas, or nothing at all. -/
def parseOperands (cs : List Char) : Option (List Nat) :=
  if trimBlanks cs = [] then some [] else parseNumbers (splitCommas cs)

/-- The operands of FRAME (R90): a number, a comma, and the payload in brackets. -/
def parseFrame (cs : List Char) : Except AsmError AsmLine :=
  let head := trimBlanks (cs.takeWhile (· != '['))
  let body := (cs.dropWhile (· != '[')).drop 1
  let close := body.dropWhile (· != ']')
  match head.getLast? == some ',', close, parseNumber (trimBlanks head.dropLast), parseOperands (body.takeWhile (· != ']')) with
  | true, _ :: after, some t, some p => if trimBlanks after = [] then .ok (.frame t p) else .error .badOperands
  | _, _, _, _ => .error .badOperands

/-- The line of a mnemonic and the text after it (R88, R89, R90). -/
def parseCommand (mnemonic rest : List Char) : Except AsmError AsmLine :=
  if mnemonic = "FRAME".toList then parseFrame rest
  else match parseOperands rest with
    | none => if mnemonic ∈ ["INIT".toList, "FEED_BYTE".toList, "CRC_FOLD".toList, ".word".toList, "FEEDS".toList]
        then .error .badOperands else .error .unknownMnemonic
    | some ns =>
      if mnemonic = "INIT".toList then match ns with
        | [ctx] => .ok (.init ctx)
        | _ => .error .badOperands
      else if mnemonic = "FEED_BYTE".toList then match ns with
        | [b] => .ok (.feedByte b)
        | _ => .error .badOperands
      else if mnemonic = "CRC_FOLD".toList then match ns with
        | [acc, b] => .ok (.crcFold acc b)
        | _ => .error .badOperands
      else if mnemonic = ".word".toList then match ns with
        | [w] => .ok (.word w)
        | _ => .error .badOperands
      else if mnemonic = "FEEDS".toList then .ok (.feeds ns)
      else .error .unknownMnemonic

/-- One line of text (R88): the comment is dropped, and lines that start with `SINK: TAKE` or `RESET` name port events. -/
def parseLine (cs : List Char) : Except AsmError AsmLine :=
  let t := trimBlanks (stripComment cs)
  if t = [] then .ok .blank
  else if "SINK: TAKE".toList.isPrefixOf t || "RESET".toList.isPrefixOf t then .ok .portEvent
  else parseCommand (t.takeWhile (fun c => !isBlankChar c)) (t.dropWhile (fun c => !isBlankChar c))

end Sys2Proof.Machine
end

