-- ==== Sys2Proof/Machine/System.lean ====
section
/-! DEFINITION. A system of several receiver instances (R192): one State each, with its own ports and agents, and nothing shared.
Each instance draws its free values by a counter of its own, so two instances with equal counters draw the same ones: DESIGN CHOICE, log
entry 22. -/

namespace Sys2Proof.Machine

/-- Instance `k` of a system makes one step; an index that names no instance steps nothing. -/
def stepInstance (k : Nat) (sys : List State) : Host.Outcome (List State) Fault Refusal :=
  match sys[k]? with
  | none => .next sys
  | some s =>
    match step s with
    | .next t => .next (sys.set k t)
    | .fault r => .fault r
    | .refused r => .refused r

end Sys2Proof.Machine
end

