-- ==== Sys2Proof/Safety.lean ====
section
/-! DEFINITION. What the machine's claims are stated in: the invariant of R35 with what the model adds to it, the result of running a
number of steps, and the agents' behaviours that a claim may assume (R195). -/

namespace Sys2Proof.Machine

/-- The parser's invariant while INITD = 1. R35 states every clause but these, which hold by the same rules: `sop_marker` beyond GOT_START
(R23), `gotType_cnt`, and LEN ≤ MAX_PAYLOAD and CNT = LEN in GOT_COMPLETE (R124, R128, R132). -/
structure Block.ParserInv (maxPayload : Byte) (b : Block) : Prop where
  empty_clear : b.pstate = .empty → b.cnt = 0 ∧ ∀ off, b.mem.read off = 0
  sop_marker : b.pstate ≠ .empty → b.sop = startMarker
  gotStart_cnt : b.pstate = .gotStart → b.cnt = 0
  gotType_cnt : b.pstate = .gotType → b.cnt = 0
  len_valid : b.pstate = .gotLength ∨ b.pstate = .gotChecksumLo → b.len ≤ maxPayload ∧ b.cnt = 0
  receiving : b.pstate = .receivingPayload → 1 ≤ b.len ∧ b.len ≤ maxPayload ∧ b.cnt < b.len
  complete_iff_pending : b.pstate = .gotComplete ↔ b.dlvPend = true
  complete : b.pstate = .gotComplete → b.calc = b.ck ∧ b.len ≤ maxPayload ∧ b.cnt = b.len
  payload_zero : ∀ i, b.cnt.toNat ≤ i → b.payloadByte i = 0
  payload_zero_pending : b.dlvPend = true → ∀ i, b.len.toNat ≤ i → b.payloadByte i = 0
  not_code7 : b.pstate ≠ .code7

/-- The block's invariant: the storage is canonical and inside its size (R50), an uninitialized block is idle (R37), no delivery is pending
under a fault (R183, R184), and the parser's invariant holds after INIT (R35). -/
structure Block.Inv (maxPayload : Byte) (b : Block) : Prop where
  mem_wf : b.mem.wf = true
  mem_within : b.mem.within (headerSize + maxPayload.toNat) = true
  uninit_idle : b.initd = false → b.pstate = .empty ∧ b.cnt = 0 ∧ b.dlvPend = false
  fault_not_pending : b.fault ≠ .none → b.dlvPend = false
  parser : b.initd = true → b.ParserInv maxPayload

/-- The invariant of the machine's state. -/
def State.Inv (s : State) : Prop := s.blk.Inv s.maxPayload

/-- Initialized, and no fault since RESET: the block takes stream bytes. -/
def State.Live (s : State) : Prop := s.blk.initd = true ∧ s.blk.fault = .none

/-- `k` steps from `s` end in `t` without a stop. -/
def runsTo (k : Nat) (s t : State) : Prop := Sys2Proof.core.run k s = .next t

/-- rst in the coming step: as RESET drives it in a step of its own, else as it stands. -/
def State.rstInStep (s : State) : Bool :=
  match s.nextMove with
  | .reset level => level
  | .block => s.pins.rst
  | .host _ => s.pins.rst
  | .sink _ _ => s.pins.rst

/-- SINK takes in the coming step if a delivery is pending: dlv_ready as SINK drives it in a step of its own, or as it stands in BLOCK's. The
steps of HOST and RESET take nothing (log entry 1). -/
def State.readyInStep (s : State) : Bool :=
  match s.nextMove with
  | .sink ready _ => ready
  | .block => s.pins.dlvReady
  | .host _ => false
  | .reset _ => false

/-- rst is low and RESET is never scheduled to assert it. -/
def State.neverReset (s : State) : Prop := s.pins.rst = false ∧ Move.reset true ∉ s.sched

/-- dlv_ready is low and SINK is never scheduled to assert it. -/
def State.neverReady (s : State) : Prop := s.pins.dlvReady = false ∧ ∀ a, Move.sink true a ∉ s.sched

/-- Nothing outside the block has changed: the parameter, the ports and their agents, the events, the free values' index. -/
structure sameOutside (s t : State) : Prop where
  maxPayload : t.maxPayload = s.maxPayload
  host : t.host = s.host
  pins : t.pins = s.pins
  sched : t.sched = s.sched
  rsp : t.rsp = s.rsp
  events : t.events = s.events
  draws : t.draws = s.draws

/-- CTX and the status bits INITD, DLV_PEND and FAULT are as before. -/
structure sameStatus (s t : State) : Prop where
  ctx : t.blk.ctx = s.blk.ctx
  initd : t.blk.initd = s.blk.initd
  dlvPend : t.blk.dlvPend = s.blk.dlvPend
  fault : t.blk.fault = s.blk.fault

/-- The storage of `t` is that of `s` with the byte `v` at the offset `a`; every other byte reads as before. -/
def storesByte (s t : State) (a : Nat) (v : Byte) : Prop := ∀ off, t.memRead off = if off = a then v else s.memRead off

/-- The receiver of `t` is cleared (R134): EMPTY, CNT = 0, every storage byte 0. -/
structure cleared (t : State) : Prop where
  pstate : t.blk.pstate = .empty
  cnt : t.blk.cnt = 0
  bytes : ∀ off, t.memRead off = 0

/-- The deliveries among the events, oldest first. -/
def deliveriesOf : List Event → List Delivery
  | [] => []
  | .delivery d :: es => d :: deliveriesOf es
  | .crcResult _ :: es => deliveriesOf es

end Sys2Proof.Machine
end

