-- ==== Sys2Proof/Certificates/Slice0/Obligations.lean ====
section
/-! DEFINITION. The statements for the provers. Each docstring names the rules of spec/ it formalises. -/

open Sys2Proof Sys2Proof.Machine

/-! ### Encoding -/

/-- R82, R78, R79, R80, R84: a word decodes to a command exactly when it is that command's encoding, so no operand bit is dropped and no
word has two meanings. -/
def Obligations.DecodeIsTheInverseOfEncode : Prop :=
  ∀ (w : CmdWord) (i : Instr), decode w = .ok i ↔ encode i = w

/-- R83: a word decodes to some command exactly when it is of a row of the opcode table (mask and match). -/
def Obligations.DecodeAcceptsExactlyTheTableWords : Prop :=
  ∀ w : CmdWord, (∃ i, decode w = .ok i) ↔ CmdWord.wellFormed w = true

/-- R82, R83, R181: which words raise ILLEGAL_OPCODE and which RESERVED_FIELD; the opcode is checked first (R182). -/
def Obligations.DecodeRejectsByNameInOrder : Prop :=
  ∀ w : CmdWord,
    (decode w = .error .illegalOpcode ↔ ¬ (w.extractLsb' 28 4 = 1 ∨ w.extractLsb' 28 4 = 2 ∨ w.extractLsb' 28 4 = 3)) ∧
    (decode w = .error .reservedField ↔
      (w.extractLsb' 28 4 = 1 ∨ w.extractLsb' 28 4 = 2 ∨ w.extractLsb' 28 4 = 3) ∧
      (w.extractLsb' 24 4 ≠ 0 ∨ w.extractLsb' 28 4 = 2 ∧ w.extractLsb' 8 16 ≠ 0))

/-- Words written out from R78 to R80, bit by bit, decode to the commands they stand for. -/
def Obligations.WrittenOutWordsDecode : Prop :=
  decode 0b00010000101010111100110111101111 = .ok (.init 0xABCDEF) ∧
  decode 0b00100000000000000000000010100001 = .ok (.feedByte 0xA1) ∧
  decode 0b00110000000111100000111010000001 = .ok (.crcFold 0x1E0E 0x81)

/-- R90: a FRAME with byte operands and at most MAX_PAYLOAD payload bytes assembles to the FEED_BYTE words of FrameBytes, in order; a payload
longer than MAX_PAYLOAD is refused, and so is an operand that is no byte (R88). -/
def Obligations.AssembledFrameFeedsItsFrameBytes : Prop :=
  ∀ (M : Byte) (t : Nat) (p : List Nat),
    (t < 2 ^ 8 → (∀ n ∈ p, n < 2 ^ 8) → p.length ≤ M.toNat →
      ∃ f ws, frameBytes M (BitVec.ofNat 8 t) (p.map (BitVec.ofNat 8)) = some f ∧ assemble M (.frame t p) = some ws ∧
        ws.map decode = f.map fun b => .ok (.feedByte b)) ∧
    (M.toNat < p.length → assemble M (.frame t p) = none) ∧
    (2 ^ 8 ≤ t ∨ (∃ n ∈ p, 2 ^ 8 ≤ n) → assemble M (.frame t p) = none)

/-- R88: an assembled command line gives one word, which decodes to the command with the operands' numbers as written; a line whose
operand is out of range is refused. -/
def Obligations.AssembledCommandKeepsItsOperands : Prop :=
  ∀ M : Byte,
    (∀ n, n < 2 ^ 24 → ∃ w c, assemble M (.init n) = some [w] ∧ decode w = .ok (.init c) ∧ c.toNat = n) ∧
    (∀ n, n < 2 ^ 8 → ∃ w b, assemble M (.feedByte n) = some [w] ∧ decode w = .ok (.feedByte b) ∧ b.toNat = n) ∧
    (∀ a n, a < 2 ^ 16 → n < 2 ^ 8 →
      ∃ w c b, assemble M (.crcFold a n) = some [w] ∧ decode w = .ok (.crcFold c b) ∧ c.toNat = a ∧ b.toNat = n) ∧
    (∀ n, 2 ^ 24 ≤ n → assemble M (.init n) = none) ∧
    (∀ n, 2 ^ 8 ≤ n → assemble M (.feedByte n) = none) ∧
    (∀ a n, 2 ^ 16 ≤ a ∨ 2 ^ 8 ≤ n → assemble M (.crcFold a n) = none)

/-- R89: the words of FEEDS are one FEED_BYTE word per byte, in order; with no bytes there is no word. -/
def Obligations.AssembledFeedsIsOneCommandPerByte : Prop :=
  ∀ M : Byte, assemble M (.feeds []) = some [] ∧
    ∀ bs : List Nat, (∀ n ∈ bs, n < 2 ^ 8) →
      ∃ ws, assemble M (.feeds bs) = some ws ∧ ws.map decode = bs.map fun n => .ok (.feedByte (BitVec.ofNat 8 n))

/-! ### The step -/

/-- A step runs the decoded command: when it is BLOCK's turn, with rst low, cmd_ready = 1 and a word on offer that decodes to `i`, the step is
`exec i` of the state with the word gone from the port. What the model's step adds around `exec` (log entries 1, 9 and 10): the schedule
moves on, the response port falls idle and the draw counter advances (R82, R165, R76). -/
def Obligations.StepRunsTheDecodedCommand : Prop :=
  ∀ (s : State) (w : CmdWord) (ws : List CmdWord) (i : Instr),
    s.nextMove = .block → s.pins.rst = false → s.blk.dlvPend = false → s.blk.fault = .none → s.host = w :: ws → decode w = .ok i →
      step s = exec i { s with host := ws, sched := s.sched.tail, rsp := none, draws := s.draws + 1 }

/-- The command placed by `withFetchWord` is the one the next step runs, whatever the state before. -/
def Obligations.FetchedWordIsTheNextCommand : Prop :=
  ∀ (s : State) (i : Instr), ∃ s1 : State,
    step (s.withFetchWord 32 (encode i).toNat) = exec i s1 ∧
    s1.blk = { s.blk with dlvPend := false, fault := .none } ∧ s1.maxPayload = s.maxPayload ∧ s1.events = s.events ∧ s1.host = []

/-- R181, R183: an accepted word with an illegal opcode records code 1, one with a legal opcode and a nonzero reserved bit code 2; the word
is consumed and nothing else of the block changes, and nothing is emitted. -/
def Obligations.StepRecordsDecodeFaults : Prop :=
  ∀ (s : State) (w : CmdWord) (ws : List CmdWord) (e : DecodeError),
    s.nextMove = .block → s.pins.rst = false → s.blk.dlvPend = false → s.blk.fault = .none → s.host = w :: ws →
    decode w = .error e →
      ∃ t, step s = .next t ∧ t.host = ws ∧ t.events = s.events ∧ t.rsp = none ∧
        t.blk = { s.blk with fault := t.blk.fault } ∧
        (e = .illegalOpcode → t.blk.fault.code = 1) ∧ (e = .reservedField → t.blk.fault.code = 2)

/-- R165: cmd_ready = 1 exactly when DLV_PEND = 0 and FAULT = 0. While cmd_ready = 0 no step accepts a word, whatever is offered and whichever
agent steps: every word on offer stays offered. A step with no RESET and no TAKE in it then changes no state of the block and presents
nothing. In which agent's step a TAKE happens (`readyInStep`) is the model's choice, log entry 1. -/
def Obligations.HeldCommandChangesNothing : Prop :=
  ∀ s : State,
    (s.blk.cmdReady = true ↔ s.blk.dlvPend = false ∧ s.blk.fault = .none) ∧
    (s.blk.cmdReady = false →
      (∀ t, step s = .next t → ∃ more, t.host = s.host ++ more) ∧
      (s.rstInStep = false → (s.blk.dlvPend = true → s.readyInStep = false) →
        ∃ t, step s = .next t ∧ t.blk = s.blk ∧ t.events = s.events ∧ t.rsp = none))

/-- R59, R165: a step accepts at most one word, BLOCK accepts it, and only when DLV_PEND = 0 and FAULT = 0 and rst is low; every other step
takes no word away. THE MODEL'S CHOICE, log entry 1, no rule of the spec: the words on offer are a queue, HOST adds one behind those on offer,
and BLOCK takes the oldest. -/
def Obligations.CommandsAreAcceptedInOrderWhenReady : Prop :=
  ∀ s t : State, step s = .next t →
    t.host = s.host ∨
    (∃ w, s.nextMove = .host w ∧ t.host = s.host ++ [w]) ∨
    (s.nextMove = .block ∧ (∃ w, s.host = w :: t.host) ∧ s.blk.dlvPend = false ∧ s.blk.fault = .none ∧ s.pins.rst = false)

/-- R164, R195: a step with rst = 1 (as RESET asserts it in its own step, or as it stands) resets, before any command or TAKE: every field R37
gives a value holds it, no offered word is accepted, and nothing is emitted, so a pending delivery is discarded. Without RESET no step leaves
a fault. That a standing rst = 1 resets in the step of every agent is the model's reading, log entry 23. -/
def Obligations.ResetEventOverridesAndResets : Prop :=
  (∀ s : State, s.rstInStep = true →
    ∃ t, step s = .next t ∧ t.blk.pstate = .empty ∧ t.blk.cnt = 0 ∧ t.blk.initd = false ∧ t.blk.dlvPend = false ∧
      t.blk.fault = .none ∧ (∃ more, t.host = s.host ++ more) ∧ t.events = s.events ∧ t.rsp = none ∧ t.maxPayload = s.maxPayload) ∧
  (∀ s t : State, step s = .next t → s.blk.fault ≠ .none → s.rstInStep = false → t.blk.fault ≠ .none)

/-- R37, R6: the fields the spec gives a reset value hold it in State.reset, and MAX_PAYLOAD is 250. -/
def Obligations.ResetStateHoldsTheResetValues : Prop :=
  State.reset.blk.pstate.code = 0 ∧ State.reset.blk.cnt = 0 ∧ State.reset.blk.initd = false ∧ State.reset.blk.dlvPend = false ∧
  State.reset.blk.fault.code = 0 ∧ State.reset.maxPayload.toNat = 250

/-- R161, R165: with rst low and a delivery pending, the step in which SINK asserts dlv_ready, or BLOCK's with dlv_ready standing (the model's
choice, log entry 1), is TAKE: it emits the record (the five header bytes, the first LEN payload bytes and CTX), drops DLV_PEND and clears
the receiver. Premise: LEN ≤ MAX_PAYLOAD, which R35 gives. -/
def Obligations.TakeEmitsTheRecordAndClears : Prop :=
  ∀ s : State, s.rstInStep = false → s.readyInStep = true → s.blk.dlvPend = true → s.blk.len ≤ s.maxPayload →
    ∃ t d, step s = .next t ∧ t.events = s.events ++ [.delivery d] ∧
      d.ctx = s.blk.ctx ∧ d.sop = s.memRead 0 ∧ d.typ = s.memRead 1 ∧ d.len = s.memRead 2 ∧ d.cklo = s.memRead 3 ∧
      d.ckhi = s.memRead 4 ∧ d.payload = (List.range (s.memRead 2).toNat).map (fun i => s.memRead (5 + i)) ∧
      t.blk.dlvPend = false ∧ cleared t ∧ t.blk.ctx = s.blk.ctx ∧ t.blk.initd = s.blk.initd ∧ t.blk.fault = s.blk.fault ∧
      t.host = s.host ∧ t.maxPayload = s.maxPayload

/-- R162, R187, R165: the output levels. While DLV_PEND = 1 the delivery port shows CTX, the header bytes and PAYLOAD[dlv_addr] for
dlv_addr < LEN; dlv_valid is DLV_PEND, err is FAULT, and cmd_ready says that both are 0. Where dlv_ready already stands asserted R215 gives
the delivery port no value: that it still shows the record there is THE MODEL'S CHOICE, log entry 24, no rule of the spec. -/
def Obligations.OutputsShowTheDeliveryAndStatus : Prop :=
  ∀ s : State,
    s.outputs.dlvValid = s.blk.dlvPend ∧ s.outputs.err = s.blk.fault.code ∧
    (s.outputs.cmdReady = true ↔ s.blk.dlvPend = false ∧ s.blk.fault = .none) ∧
    (s.blk.dlvPend = true →
      s.outputs.dlvCtx = s.blk.ctx ∧ s.outputs.dlvSop = s.memRead 0 ∧ s.outputs.dlvType = s.memRead 1 ∧
      s.outputs.dlvLen = s.memRead 2 ∧ s.outputs.dlvCklo = s.memRead 3 ∧ s.outputs.dlvCkhi = s.memRead 4 ∧
      (s.pins.dlvAddr < s.blk.len → s.blk.len ≤ s.maxPayload → s.outputs.dlvData = s.memRead (5 + s.pins.dlvAddr.toNat)))

/-- R34: no port shows PSTATE, CNT or INITD: the outputs are the same whatever those fields hold. -/
def Obligations.OutputsHideTheParserState : Prop :=
  ∀ (s : State) (p : PState) (c : Byte) (i : Bool),
    { s with blk := { s.blk with pstate := p, cnt := c, initd := i } }.outputs = s.outputs

/-! ### INIT and CRC_FOLD -/

/-- R160: INIT completes in every state. It clears the receiver, stores CTX and sets INITD; DLV_PEND, FAULT and everything outside the
block are unchanged. -/
def Obligations.InitClearsAndStoresTheContext : Prop :=
  ∀ (ctx : Ctx) (s : State), ∃ t, exec (.init ctx) s = .next t ∧ cleared t ∧ t.blk.ctx = ctx ∧ t.blk.initd = true ∧
    t.blk.dlvPend = s.blk.dlvPend ∧ t.blk.fault = s.blk.fault ∧ sameOutside s t

/-- R57: INIT twice in succession with the same CTX leaves the same state as INIT once. -/
def Obligations.InitIsIdempotent : Prop :=
  ∀ (ctx : Ctx) (s t : State), exec (.init ctx) s = .next t → exec (.init ctx) t = .next t

/-- R103, R86: CRC_FOLD completes in every state, initialized or not; it presents CRCFold(data, acc) on the response port, emits it, and
changes nothing else. -/
def Obligations.CrcFoldPresentsTheFold : Prop :=
  ∀ (acc : Acc) (data : Byte) (s : State), ∃ t, exec (.crcFold acc data) s = .next t ∧
    t.outputs.rspValid = true ∧ t.outputs.rspCrc = crcFold data acc ∧
    t = { s with rsp := t.rsp, events := s.events ++ [.crcResult (crcFold data acc)] }

/-- R103: a CRC_FOLD before a FEED_BYTE does not change how the receiver parses: the byte has the same effect on the block. -/
def Obligations.CrcFoldDoesNotDisturbParsing : Prop :=
  ∀ (acc : Acc) (data b : Byte) (s u t : State), exec (.crcFold acc data) s = .next u → exec (.feedByte b) s = .next t →
    ∃ t', exec (.feedByte b) u = .next t' ∧ t'.blk = t.blk

/-! ### The Checksum Engine -/

/-- R102: CRCFold is the bit-serial reflected step with constant 0x8408, for all 2^24 pairs. -/
def Obligations.CrcFoldIsTheBitSerialStep : Prop :=
  ∀ (b : Byte) (acc : Acc), crcFold b acc = bitSerial b acc

/-- R103, corner cases: for a fixed byte the fold is a bijection of the accumulator, for a fixed accumulator it is injective in the byte,
and it is 0 exactly when b = acc[7:0] and acc[15:8] = 0. -/
def Obligations.CrcFoldIsBijectiveAndInjective : Prop :=
  (∀ b : Byte, Function.Bijective (crcFold b)) ∧
  (∀ acc : Acc, Function.Injective (fun b => crcFold b acc)) ∧
  (∀ (b : Byte) (acc : Acc), crcFold b acc = 0 ↔ b = acc.extractLsb' 0 8 ∧ acc.extractLsb' 8 8 = 0)

/-- R105: CRC16 of the empty sequence is the seed, and of a concatenation the fold of the second from the first. -/
def Obligations.Crc16FoldsConcatenations : Prop :=
  ∀ (acc : Acc) (a b : List Byte), crc16 acc [] = acc ∧ crc16 acc (a ++ b) = crc16 (crc16 acc a) b

/-- R105: a change in one byte of the type or the payload, with the length unchanged, always changes the frame checksum; a single-bit change
is the case of two bytes that differ in one bit. -/
def Obligations.OneByteChangeAltersTheChecksum : Prop :=
  (∀ (t t' : Byte) (p : List Byte), t ≠ t' → frameChecksum t p ≠ frameChecksum t' p) ∧
  (∀ (t : Byte) (p q : List Byte) (v v' : Byte), v ≠ v' → frameChecksum t (p ++ v :: q) ≠ frameChecksum t (p ++ v' :: q))

/-- R74: a byte sequence f is a well-formed frame when its marker, length byte, total length and checksum are right, which is to say that f
is FrameBytes(f[1], f[5 ..]). -/
def Obligations.WellFormedFramesAreFrameBytes : Prop :=
  ∀ (M : Byte) (f : List Byte),
    (isFrame M f = true ↔
      f.getD 0 0 = startMarker ∧ (f.getD 2 0).toNat ≤ M.toNat ∧ f.length = 5 + (f.getD 2 0).toNat ∧
      (f.getD 4 0 ++ f.getD 3 0 : BitVec (8 + 8)) = crc16 seed ([f.getD 1 0, f.getD 2 0] ++ f.drop 5)) ∧
    (isFrame M f = true ↔ frameBytes M (f.getD 1 0) (f.drop 5) = some f)

/-! ### FEED_BYTE, row by row -/

/-- R120, R181, R183: FEED_BYTE with INITD = 0 records NOT_INITIALIZED (code 3) and changes no other field. -/
def Obligations.FeedByteBeforeInitFaults : Prop :=
  ∀ (b : Byte) (s : State), s.blk.initd = false →
    ∃ t, exec (.feedByte b) s = .next t ∧ t.blk.fault.code = 3 ∧ t = { s with blk := { s.blk with fault := t.blk.fault } }

/-- R121: in EMPTY, START_MARKER is stored as sop and PSTATE becomes GOT_START; nothing else changes. -/
def Obligations.EmptyStartsAFrameOnTheMarker : Prop :=
  ∀ s : State, s.blk.mem.wf = true → s.blk.initd = true → s.blk.pstate = .empty →
    ∃ t, exec (.feedByte startMarker) s = .next t ∧ t.blk.pstate = .gotStart ∧ storesByte s t sopOffset startMarker ∧
      t.blk.cnt = s.blk.cnt ∧ sameStatus s t ∧ sameOutside s t

/-- R122: in EMPTY any other byte is ignored: the whole state stays. -/
def Obligations.EmptyIgnoresOtherBytes : Prop :=
  ∀ (b : Byte) (s : State), s.blk.initd = true → s.blk.pstate = .empty → b ≠ startMarker → exec (.feedByte b) s = .next s

/-- R123, R75: in GOT_START any byte, the marker included, is stored as the type. -/
def Obligations.GotStartStoresTheType : Prop :=
  ∀ (b : Byte) (s : State), s.blk.mem.wf = true → s.blk.initd = true → s.blk.pstate = .gotStart →
    ∃ t, exec (.feedByte b) s = .next t ∧ t.blk.pstate = .gotType ∧ storesByte s t typeOffset b ∧
      t.blk.cnt = s.blk.cnt ∧ sameStatus s t ∧ sameOutside s t

/-- R124: in GOT_TYPE a byte b ≤ MAX_PAYLOAD, unsigned, is stored as the length, and CNT becomes 0. -/
def Obligations.GotTypeStoresAValidLength : Prop :=
  ∀ (b : Byte) (s : State), s.blk.mem.wf = true → s.blk.initd = true → s.blk.pstate = .gotType → b.toNat ≤ s.maxPayload.toNat →
    ∃ t, exec (.feedByte b) s = .next t ∧ t.blk.pstate = .gotLength ∧ storesByte s t lenOffset b ∧
      t.blk.cnt = 0 ∧ sameStatus s t ∧ sameOutside s t

/-- R125: in GOT_TYPE a byte b > MAX_PAYLOAD discards the frame silently, whatever b is, START_MARKER included. -/
def Obligations.GotTypeDiscardsALongLength : Prop :=
  ∀ (b : Byte) (s : State), s.blk.initd = true → s.blk.pstate = .gotType → s.maxPayload.toNat < b.toNat →
    ∃ t, exec (.feedByte b) s = .next t ∧ cleared t ∧ sameStatus s t ∧ sameOutside s t

/-- R126: in GOT_LENGTH any byte is stored as the checksum low byte. -/
def Obligations.GotLengthStoresTheChecksumLowByte : Prop :=
  ∀ (b : Byte) (s : State), s.blk.mem.wf = true → s.blk.initd = true → s.blk.pstate = .gotLength →
    ∃ t, exec (.feedByte b) s = .next t ∧ t.blk.pstate = .gotChecksumLo ∧ storesByte s t ckloOffset b ∧
      t.blk.cnt = s.blk.cnt ∧ sameStatus s t ∧ sameOutside s t

/-- R127, R130 to R133: in GOT_CHECKSUM_LO any byte is stored as the checksum high byte. With LEN > 0 the payload follows. With LEN = 0 the
frame is complete at once: presented if CRC16(SEED, [TYPE, 0]) is the received checksum, else discarded silently. -/
def Obligations.GotChecksumLoStoresHighOrCompletes : Prop :=
  ∀ (b : Byte) (s : State), s.blk.mem.wf = true → s.blk.initd = true → s.blk.pstate = .gotChecksumLo →
    ∃ t, exec (.feedByte b) s = .next t ∧ sameOutside s t ∧
      t.blk.ctx = s.blk.ctx ∧ t.blk.initd = s.blk.initd ∧ t.blk.fault = s.blk.fault ∧
      (s.blk.len ≠ 0 → t.blk.pstate = .receivingPayload ∧ storesByte s t ckhiOffset b ∧ t.blk.cnt = s.blk.cnt ∧
        t.blk.dlvPend = s.blk.dlvPend) ∧
      (s.blk.len = 0 → crc16 seed [s.blk.typ, 0] = b ++ s.blk.cklo →
        t.blk.pstate = .gotComplete ∧ t.blk.dlvPend = true ∧ storesByte s t ckhiOffset b ∧ t.blk.cnt = s.blk.cnt) ∧
      (s.blk.len = 0 → crc16 seed [s.blk.typ, 0] ≠ b ++ s.blk.cklo → cleared t ∧ t.blk.dlvPend = s.blk.dlvPend)

/-- R128, R130 to R133: in RECEIVING_PAYLOAD the byte is stored at payload index CNT and CNT grows by one. If that is not the last byte the
state stays. If it is, the frame is presented when CRC16(SEED, [TYPE, LEN] ++ payload) is the received checksum, else discarded silently.
Premise: CNT < LEN ≤ MAX_PAYLOAD, which R35 gives. -/
def Obligations.ReceivingStoresPayloadAndCompletes : Prop :=
  ∀ (b : Byte) (s : State), s.blk.mem.wf = true → s.blk.initd = true → s.blk.pstate = .receivingPayload →
    s.blk.cnt < s.blk.len → s.blk.len ≤ s.maxPayload →
    ∃ t, exec (.feedByte b) s = .next t ∧ sameOutside s t ∧
      t.blk.ctx = s.blk.ctx ∧ t.blk.initd = s.blk.initd ∧ t.blk.fault = s.blk.fault ∧
      (s.blk.cnt.toNat + 1 < s.blk.len.toNat →
        t.blk.pstate = .receivingPayload ∧ storesByte s t (payloadOffset s.blk.cnt.toNat) b ∧
        t.blk.cnt.toNat = s.blk.cnt.toNat + 1 ∧ t.blk.dlvPend = s.blk.dlvPend) ∧
      (s.blk.cnt.toNat + 1 = s.blk.len.toNat →
        crc16 seed ([s.blk.typ, s.blk.len] ++ s.blk.payload s.blk.cnt.toNat ++ [b]) = s.blk.ck →
        t.blk.pstate = .gotComplete ∧ t.blk.dlvPend = true ∧ storesByte s t (payloadOffset s.blk.cnt.toNat) b ∧
        t.blk.cnt = s.blk.len) ∧
      (s.blk.cnt.toNat + 1 = s.blk.len.toNat →
        crc16 seed ([s.blk.typ, s.blk.len] ++ s.blk.payload s.blk.cnt.toNat ++ [b]) ≠ s.blk.ck →
        cleared t ∧ t.blk.dlvPend = s.blk.dlvPend)

/-- R129: FEED_BYTE in GOT_COMPLETE, which no run meets, applies R121 and R122 for totality. -/
def Obligations.GotCompleteAppliesTheEmptyRows : Prop :=
  ∀ (b : Byte) (s : State), s.blk.mem.wf = true → s.blk.initd = true → s.blk.pstate = .gotComplete →
    (b ≠ startMarker → exec (.feedByte b) s = .next s) ∧
    (b = startMarker → ∃ t, exec (.feedByte b) s = .next t ∧ t.blk.pstate = .gotStart ∧ storesByte s t sopOffset startMarker ∧
      t.blk.cnt = s.blk.cnt ∧ sameStatus s t ∧ sameOutside s t)

/-- R38: FEED_BYTE in PSTATE encoding 7 is a model fault; in every state of the invariant, which rules that encoding out, FEED_BYTE
completes, whatever the byte, initialized or not. -/
def Obligations.FeedByteStopsOnlyOutsideTheInvariant : Prop :=
  ∀ (b : Byte) (s : State),
    (s.blk.initd = true → s.blk.pstate = .code7 → exec (.feedByte b) s = .fault .pstateCode7) ∧
    (s.Inv → ∃ t, exec (.feedByte b) s = .next t)

/-- R50 and log entry 12, the model's choice: an access at an offset of HEADER_SIZE + MAX_PAYLOAD or more, which no rule forms, stops as a
model fault: FEED_BYTE with CNT ≥ MAX_PAYLOAD in RECEIVING_PAYLOAD, and TAKE of a record with LEN > MAX_PAYLOAD. -/
def Obligations.AccessBeyondTheStorageIsAModelFault : Prop :=
  (∀ (b : Byte) (s : State), s.blk.initd = true → s.blk.pstate = .receivingPayload → s.maxPayload.toNat ≤ s.blk.cnt.toNat →
    exec (.feedByte b) s = .fault .noSuchOffset) ∧
  (∀ s : State, s.maxPayload.toNat < s.blk.len.toNat → take s = .fault .noSuchOffset)

/-- R180: no stream byte value raises a fault: from every initialized state of the invariant with FAULT = 0, FEED_BYTE completes, FAULT stays
0 (so err shows 0) and INITD stays 1, and nothing is emitted and nothing put on the response port. (A last byte whose frame's checksum
matches does raise dlv_valid, which is no error output.) -/
def Obligations.NoStreamByteRaisesAFault : Prop :=
  ∀ (b : Byte) (s : State), s.Inv → s.Live →
    ∃ t, exec (.feedByte b) s = .next t ∧ t.Live ∧ t.outputs.err = 0 ∧ t.events = s.events ∧ t.rsp = s.rsp

/-! ### Invariants and whole-machine rules -/

/-- R37: the reset state meets the invariant (its PKT bytes are the model's choice, log entry 5). -/
def Obligations.InvariantHoldsAtReset : Prop := State.reset.Inv

/-- R35: every step keeps the invariant, from every state that meets it. -/
def Obligations.EveryStepKeepsTheInvariant : Prop :=
  ∀ s t : State, s.Inv → step s = .next t → t.Inv

/-- From every state that meets the invariant the machine steps: no model fault and no refusal (R35, R50, R180). -/
def Obligations.TheMachineNeverStops : Prop :=
  ∀ s : State, s.Inv → ∃ t, step s = .next t

/-- The model's choice, log entry 20: the packet storage of R50 is represented by a list of cells in one canonical form, of which the spec says
nothing. Every step, of whichever agent, keeps that form, so equal storages are equal data. -/
def Obligations.EveryStepKeepsTheStorageCanonical : Prop :=
  ∀ s t : State, s.blk.mem.wf = true → step s = .next t → t.blk.mem.wf = true

/-- R6: MAX_PAYLOAD is a parameter: no step changes it. -/
def Obligations.NoStepChangesTheParameter : Prop :=
  ∀ s t : State, step s = .next t → t.maxPayload = s.maxPayload

/-- R185: a recorded fault keeps its code through every step, of whichever agent, but one with rst = 1, which clears it; whatever is offered,
there is no command that returns from it. That a standing rst = 1 resets in the step of every agent is the model's reading, log entry 23. -/
def Obligations.OnlyResetClearsAFault : Prop :=
  ∀ s t : State, step s = .next t → s.blk.fault ≠ .none →
    t.blk.fault = if s.rstInStep = true then .none else s.blk.fault

/-- R30: DLV_PEND is set only in a step in which BLOCK accepts a FEED_BYTE that completes a frame whose checksum matches; while it is 1 no
command is accepted, every word on offer staying; it is cleared by RESET, which emits nothing, and by TAKE, which emits the record, and by
nothing else. In which agent's step TAKE and RESET happen (`readyInStep`, `rstInStep`) is the model's choice where the levels stand, log
entries 1 and 23. -/
def Obligations.DeliveryPendsFromFeedByteUntilTakeOrReset : Prop :=
  ∀ s t : State, step s = .next t →
    (s.blk.dlvPend = false → t.blk.dlvPend = true →
      s.nextMove = .block ∧ (∃ b, s.host = encode (.feedByte b) :: t.host) ∧ t.blk.pstate = .gotComplete ∧
      crc16 seed ([t.blk.typ, t.blk.len] ++ t.blk.payload t.blk.len.toNat) = t.blk.ckhi ++ t.blk.cklo) ∧
    (s.blk.dlvPend = true → ∃ more, t.host = s.host ++ more) ∧
    (s.blk.dlvPend = true →
      (t.blk.dlvPend = false ↔ s.rstInStep = true ∨ s.readyInStep = true) ∧
      (t.blk.dlvPend = false → s.rstInStep = true → t.events = s.events) ∧
      (t.blk.dlvPend = false → s.rstInStep = false → t.events = s.events ++ [.delivery s.blk.delivery]))

/-- R28, R37: CTX changes only in a step in which BLOCK accepts an INIT, to its operand, or in one with rst = 1, which leaves it without a
value: a free value of that step (U2, log entry 7). That a standing rst = 1 resets in the step of every agent is the model's reading, log
entry 23. -/
def Obligations.OnlyInitWritesTheContext : Prop :=
  ∀ s t : State, step s = .next t →
    (t.blk.ctx ≠ s.blk.ctx →
      s.rstInStep = true ∨ (s.nextMove = .block ∧ s.host = encode (.init t.blk.ctx) :: t.host)) ∧
    (s.rstInStep = true → t.blk.ctx = Config.freeCtx t.draws)

/-- R59, R86, R161: a step emits at most one event: a CRC result that the response port shows, or the record of the delivery that was
pending and is no longer. -/
def Obligations.AStepEmitsAtMostOneEvent : Prop :=
  ∀ s t : State, step s = .next t →
    (t.events = s.events ∧ t.rsp = none) ∨
    (∃ v, t.events = s.events ++ [.crcResult v] ∧ t.rsp = some v) ∨
    (t.events = s.events ++ [.delivery s.blk.delivery] ∧ t.rsp = none ∧ s.blk.dlvPend = true ∧ t.blk.dlvPend = false)

/-- R214: a sink that never takes the delivery stops the block: however many steps the agents make, the block is as it was, and every word
that was on offer still is. -/
def Obligations.PendingDeliveryHoldsUntilTaken : Prop :=
  ∀ s : State, s.blk.dlvPend = true → s.neverReset → s.neverReady →
    ∀ k, ∃ t more, runsTo k s t ∧ t.blk = s.blk ∧ t.events = s.events ∧ t.host = s.host ++ more

/-- R184: while FAULT != 0 the block accepts no command and holds its state until RESET: however many steps the agents make, whatever is
offered. Premise: DLV_PEND = 0, which R183 gives. -/
def Obligations.FaultHoldsUntilReset : Prop :=
  ∀ s : State, s.blk.fault ≠ .none → s.blk.dlvPend = false → s.neverReset →
    ∀ k, ∃ t more, runsTo k s t ∧ t.blk = s.blk ∧ t.events = s.events ∧ t.host = s.host ++ more

/-- R192: instances share no state: a step of instance `k` leaves every other instance of the system as it was. -/
def Obligations.InstancesShareNoState : Prop :=
  ∀ (sys sys' : List State) (k j : Nat), stepInstance k sys = .next sys' → j ≠ k → sys'[j]? = sys[j]?

/-! ### Streams -/

/-- R136, R89: a byte sequence fed in two chunks has the effect of the whole, and the empty chunk performs no step. -/
def Obligations.ChunkBoundariesDoNotMatter : Prop :=
  ∀ (a b : List Byte) (s : State),
    feedChunk [] s = .next s ∧
    feedChunk (a ++ b) s = (match feedChunk a s with
      | .next u => feedChunk b u
      | r => r)

/-- R139: in EMPTY, a byte sequence with no START_MARKER leaves the state unchanged and presents no delivery. -/
def Obligations.NoiseFromEmptyIsIgnored : Prop :=
  ∀ (bs : List Byte) (s : State), s.blk.initd = true → s.blk.pstate = .empty → s.blk.dlvPend = false → startMarker ∉ bs →
    feedChunk bs s = .next s

/-- R137: the atomic feed is what the ports do when the sink is always ready and BLOCK makes the steps: one step where the byte presents
nothing, two where it presents a delivery, ending in the same block state with the same events. -/
def Obligations.AtomicFeedIsFeedThenTake : Prop :=
  ∀ (s u : State) (b : Byte) (ws : List CmdWord),
    s.sched = [] → s.pins.rst = false → s.pins.dlvReady = true → s.blk.dlvPend = false → s.blk.fault = .none →
    s.host = encode (.feedByte b) :: ws → feed b s = .next u →
    ∃ s1 t, exec (.feedByte b) s = .next s1 ∧ runsTo (if s1.blk.dlvPend then 2 else 1) s t ∧ t.blk = u.blk ∧ t.events = u.events ∧
      t.host = ws ∧ t.sched = [] ∧ t.pins = s.pins

/-- R138: from EMPTY, feeding FrameBytes(T, P) presents exactly one delivery, with type T, payload P, length |P|, the start marker and CTX;
it comes with the last byte, no earlier one, and the receiver ends cleared. -/
def Obligations.RoundTripDeliversTheFrameOnce : Prop :=
  ∀ (s : State) (T : Byte) (P f : List Byte), s.Inv → s.Live → s.blk.pstate = .empty → frameBytes s.maxPayload T P = some f →
    (∃ u, feedChunk f.dropLast s = .next u ∧ u.events = s.events) ∧
    ∃ t d, feedChunk f s = .next t ∧ t.events = s.events ++ [.delivery d] ∧ d.ctx = s.blk.ctx ∧ d.sop = startMarker ∧ d.typ = T ∧
      d.len.toNat = P.length ∧ d.ckhi ++ d.cklo = frameChecksum T P ∧ d.payload = P ∧ cleared t ∧ t.Live ∧ t.blk.ctx = s.blk.ctx

/-- R138 through the ports: HOST has the FEED_BYTE words of FrameBytes(T, P) on offer and nothing else, the sink is always ready, and after
one BLOCK step a byte and one TAKE the delivery has been emitted, exactly one, and every word has been accepted. -/
def Obligations.RoundTripThroughThePorts : Prop :=
  ∀ (s : State) (T : Byte) (P f : List Byte), s.Inv → s.Live → s.blk.pstate = .empty → s.sched = [] → s.pins.rst = false →
    s.pins.dlvReady = true → frameBytes s.maxPayload T P = some f → s.host = feedWords f →
    ∃ t d, runsTo (f.length + 1) s t ∧ t.host = [] ∧ t.events = s.events ++ [.delivery d] ∧ d.ctx = s.blk.ctx ∧ d.typ = T ∧
      d.len.toNat = P.length ∧ d.payload = P ∧ cleared t

/-- R222, R135: from any state of the invariant inside a frame, at most 4 + MAX_PAYLOAD more bytes bring the receiver back to EMPTY,
whatever they are. The bytes go through `feed` (R137), which takes a delivery at once. -/
def Obligations.AFrameEndsWithinItsBound : Prop :=
  ∀ (s : State) (bs : List Byte), s.Inv → s.Live → s.blk.dlvPend = false → s.blk.pstate ≠ .empty →
    bs.length = 4 + s.maxPayload.toNat →
    ∃ n t, n ≤ bs.length ∧ feedChunk (bs.take n) s = .next t ∧ t.blk.pstate = .empty

/-! ### The agents -/

/-- R14, R195: each agent has a step of its own. HOST may offer any word. RESET may assert rst at any time, and its step gets back the reset
state (R164). SINK's step that asserts dlv_ready takes a pending delivery (R161, R165); otherwise it only reads (R162). BLOCK's step changes
no pin and offers no word. THE MODEL'S CHOICE, log entries 1 and 23, no rule of the spec: a HOST word queues behind those on offer, levels
stand until driven again, each agent leaves the other agents' sides of the ports alone, and every step moves the schedule on: sched becomes
sched.tail. -/
def Obligations.EachAgentMakesItsOwnStep : Prop :=
  ∀ s : State,
    (∀ w, s.nextMove = .host w → ∃ t, step s = .next t ∧ t.host = s.host ++ [w] ∧ t.pins = s.pins ∧
      t.events = s.events ∧ t.sched = s.sched.tail ∧ (s.pins.rst = false → t.blk = s.blk)) ∧
    (∀ r a, s.nextMove = .sink r a → (s.blk.dlvPend = true → s.blk.len ≤ s.maxPayload) →
      ∃ t, step s = .next t ∧ t.pins.dlvReady = r ∧ t.pins.dlvAddr = a ∧ t.pins.rst = s.pins.rst ∧
        t.host = s.host ∧ t.sched = s.sched.tail ∧
        (s.pins.rst = false → r = false ∨ s.blk.dlvPend = false → t.blk = s.blk ∧ t.events = s.events) ∧
        (s.pins.rst = false → r = true → s.blk.dlvPend = true →
          t.blk.dlvPend = false ∧ cleared t ∧ t.events = s.events ++ [.delivery s.blk.delivery])) ∧
    (∀ l, s.nextMove = .reset l → ∃ t, step s = .next t ∧ t.pins.rst = l ∧ t.pins.dlvReady = s.pins.dlvReady ∧
      t.pins.dlvAddr = s.pins.dlvAddr ∧ t.host = s.host ∧ t.events = s.events ∧ t.sched = s.sched.tail ∧
      (l = false → t.blk = s.blk) ∧
      (l = true → t.blk.pstate = .empty ∧ t.blk.cnt = 0 ∧ t.blk.initd = false ∧ t.blk.dlvPend = false ∧ t.blk.fault = .none)) ∧
    (∀ t, s.nextMove = .block → step s = .next t →
      t.pins = s.pins ∧ t.sched = s.sched.tail ∧ (t.host = s.host ∨ ∃ w, s.host = w :: t.host))

/-- R194, R211: between commands BLOCK waits: with rst low, no delivery to take and no word on offer, its step leaves its state unchanged and
emits nothing. -/
def Obligations.BlockWaitsBetweenCommands : Prop :=
  ∀ s : State, s.nextMove = .block → s.pins.rst = false → s.takeEnabled = false → s.host = [] →
    ∃ t, step s = .next t ∧ t.blk = s.blk ∧ t.host = [] ∧ t.events = s.events ∧ t.rsp = none
end

