-- ==== Sys2Proof/Laws/Memory.lean ====
section
/-! SUPPORT. The laws of the packet storage as data: read after write, the canonical form, its bound, and extensionality. -/

namespace Sys2Proof.Machine

@[simp] theorem Memory.read_zeroed (a : Nat) : Memory.read Memory.zeroed a = 0 := rfl
@[simp] theorem Memory.wf_zeroed : Memory.wf Memory.zeroed = true := rfl
@[simp] theorem Memory.within_zeroed (n : Nat) : Memory.within n Memory.zeroed = true := rfl

theorem Memory.wf_cons {c : Host.Cell} {m : Memory} :
    Memory.wf (c :: m) = true ↔ c.2 ≠ 0 ∧ (∀ d ∈ m, c.1 < d.1) ∧ Memory.wf m = true := by
  simp [Memory.wf, Memory.unlisted, and_assoc]

/-- Below the first listed offset nothing is listed. -/
theorem Memory.read_below {m : Memory} {a : Nat} (h : ∀ d ∈ m, a < d.1) : m.read a = 0 := by
  induction m with
  | nil => rfl
  | cons c m ih =>
    have hc : a < c.1 := h c (by simp)
    simp only [Memory.read, if_neg (Nat.ne_of_lt hc)]
    exact ih fun d hd => h d (by simp [hd])

theorem Memory.all_write {m : Memory} {P : Nat → Prop} (a : Nat) (v : Byte) (h : ∀ d ∈ m, P d.1) (ha : P a) :
    ∀ d ∈ m.write a v, P d.1 := by
  induction m with
  | nil => intro d; simp only [Memory.write]; split <;> simp; rintro rfl; exact ha
  | cons c m ih =>
    have hc := h c (by simp)
    have hm : ∀ d ∈ m, P d.1 := fun d hd => h d (by simp [hd])
    simp only [Memory.write]
    split
    · split
      · exact h
      · simp only [List.mem_cons, forall_eq_or_imp]; exact ⟨ha, hc, hm⟩
    · split
      · split
        · exact hm
        · simp only [List.mem_cons, forall_eq_or_imp]; exact ⟨ha, hm⟩
      · simp only [List.mem_cons, forall_eq_or_imp]; exact ⟨hc, ih hm⟩

/-- A write keeps the canonical form. -/
theorem Memory.wf_write {m : Memory} (a : Nat) (v : Byte) (h : m.wf = true) : (m.write a v).wf = true := by
  induction m with
  | nil => simp only [Memory.write]; split <;> simp_all [Memory.wf]
  | cons c m ih =>
    obtain ⟨hc, hlt, hm⟩ := Memory.wf_cons.1 h
    simp only [Memory.write]
    split
    · rename_i hac
      split
      · exact h
      · rename_i hv
        refine Memory.wf_cons.2 ⟨hv, ?_, h⟩
        simp only [List.mem_cons, forall_eq_or_imp]
        exact ⟨hac, fun d hd => lt_trans hac (hlt d hd)⟩
    · rename_i hac
      split
      · rename_i hea
        split
        · exact hm
        · rename_i hv
          exact Memory.wf_cons.2 ⟨hv, by simpa [hea] using hlt, hm⟩
      · rename_i hne
        exact Memory.wf_cons.2 ⟨hc, Memory.all_write (P := (c.1 < ·)) a v hlt (by omega), ih hm⟩

/-- Read after write: the byte written at its offset, every other byte as before. -/
theorem Memory.read_write {m : Memory} (h : m.wf = true) (a : Nat) (v : Byte) (x : Nat) :
    (m.write a v).read x = if x = a then v else m.read x := by
  induction m with
  | nil => simp only [Memory.write]; split <;> simp_all [Memory.read, Memory.unlisted]
  | cons c m ih =>
    obtain ⟨hc, hlt, hm⟩ := Memory.wf_cons.1 h
    simp only [Memory.write]
    split
    · rename_i hac
      split
      · rename_i hv
        by_cases hx : x = a
        · subst hx
          rw [if_pos rfl, hv]
          refine Memory.read_below ?_
          simp only [List.mem_cons, forall_eq_or_imp]
          exact ⟨hac, fun d hd => lt_trans hac (hlt d hd)⟩
        · rw [if_neg hx]
      · simp [Memory.read]
    · split
      · rename_i hea
        split
        · rename_i hv
          by_cases hx : x = a
          · subst hx
            rw [if_pos rfl, hv]
            exact Memory.read_below (by simpa [hea] using hlt)
          · simp [Memory.read, ← hea, hx]
        · by_cases hx : x = a <;> simp [Memory.read, hx, ← hea]
      · rename_i hne
        simp only [Memory.read, ih hm]
        by_cases hx : x = c.1
        · simp [hx, Ne.symm hne]
        · simp [hx]

theorem Memory.within_iff {n : Nat} {m : Memory} : m.within n = true ↔ ∀ c ∈ m, c.1 < n := by
  simp [Memory.within]

/-- A write inside the bound keeps the bound. -/
theorem Memory.within_write {n : Nat} {m : Memory} {a : Nat} (v : Byte) (h : m.within n = true) (ha : a < n) :
    (m.write a v).within n = true :=
  Memory.within_iff.2 (Memory.all_write (P := (· < n)) a v (Memory.within_iff.1 h) ha)

/-- At and above the bound every byte reads as unlisted. -/
theorem Memory.read_beyond {n : Nat} {m : Memory} {a : Nat} (h : m.within n = true) (ha : n ≤ a) : m.read a = 0 := by
  rw [Memory.within_iff] at h
  induction m with
  | nil => rfl
  | cons c m ih =>
    have hc : c.1 < n := h c (by simp)
    simp only [Memory.read, if_neg (by omega : ¬ a = c.1)]
    exact ih fun d hd => h d (by simp [hd])

theorem Memory.wf_ofBytes (f : Nat → Byte) (n : Nat) : (Memory.ofBytes f n).wf = true := by
  induction n with
  | zero => rfl
  | succ n ih => exact Memory.wf_write n (f n) ih

theorem Memory.within_ofBytes (f : Nat → Byte) {n k : Nat} (h : n ≤ k) : (Memory.ofBytes f n).within k = true := by
  induction n with
  | zero => rfl
  | succ n ih => exact Memory.within_write (f n) (ih (by omega)) (by omega)

theorem Memory.read_ofBytes (f : Nat → Byte) (n x : Nat) : (Memory.ofBytes f n).read x = if x < n then f x else 0 := by
  induction n with
  | zero => rfl
  | succ n ih =>
    simp only [Memory.ofBytes, Memory.read_write (Memory.wf_ofBytes f n), ih]
    by_cases hx : x = n
    · simp [hx]
    · simp [hx, show x < n + 1 ↔ x < n by omega]

/-- Two canonical memories that read alike are the same data. -/
theorem Memory.ext_of_read {m m' : Memory} (h : m.wf = true) (h' : m'.wf = true) (hr : ∀ a, m.read a = m'.read a) : m = m' := by
  induction m generalizing m' with
  | nil =>
    cases m' with
    | nil => rfl
    | cons c m' =>
      have := hr c.1
      simp only [Memory.read, if_pos] at this
      exact absurd this.symm (Memory.wf_cons.1 h').1
  | cons c m ih =>
    obtain ⟨hc, hlt, hm⟩ := Memory.wf_cons.1 h
    cases m' with
    | nil =>
      have := hr c.1
      simp only [Memory.read, if_pos] at this
      exact absurd this hc
    | cons c' m' =>
      obtain ⟨hc', hlt', hm'⟩ := Memory.wf_cons.1 h'
      have h1 : c.1 = c'.1 := by
        rcases Nat.lt_trichotomy c.1 c'.1 with hl | he | hg
        · have h0 : Memory.read (c' :: m') c.1 = 0 := by
            refine Memory.read_below ?_
            simp only [List.mem_cons, forall_eq_or_imp]
            exact ⟨hl, fun d hd => lt_trans hl (hlt' d hd)⟩
          rw [← hr c.1] at h0
          simp only [Memory.read, if_pos] at h0
          exact absurd h0 hc
        · exact he
        · have h0 : Memory.read (c :: m) c'.1 = 0 := by
            refine Memory.read_below ?_
            simp only [List.mem_cons, forall_eq_or_imp]
            exact ⟨hg, fun d hd => lt_trans hg (hlt d hd)⟩
          rw [hr c'.1] at h0
          simp only [Memory.read, if_pos] at h0
          exact absurd h0 hc'
      have h2 : c.2 = c'.2 := by
        have := hr c.1
        simpa [Memory.read, h1] using this
      have hm2 : m = m' := by
        refine ih hm hm' fun a => ?_
        by_cases ha : a = c.1
        · rw [ha, Memory.read_below hlt, Memory.read_below (by simpa [h1] using hlt')]
        · have := hr a
          simpa [Memory.read, ha, ← h1] using this
      rw [hm2, Prod.ext h1 h2]

end Sys2Proof.Machine
end

