-- ==== Sys2Proof/Laws/PerInstr.lean ====
section
/-! SUPPORT. The family EncodesTableRow, one lemma per constructor: the encoder's word carries the mask and match of the instruction's row
of the opcode table (R78 to R80). -/

namespace Sys2Proof.Laws.EncodesTableRow

/-- The opcode table's row of an instruction. -/
def rowOf : Instr → OpcodeRow
  | .init _ => ⟨"INIT", 0xFF000000, 0x10000000⟩
  | .feedByte _ => ⟨"FEED_BYTE", 0xFFFFFF00, 0x20000000⟩
  | .crcFold _ _ => ⟨"CRC_FOLD", 0xFF000000, 0x30000000⟩

/-- The row is in the table and the encoded word is of the row. -/
def Statement (i : Instr) : Prop := rowOf i ∈ opcodeTable ∧ (rowOf i).matchesWord (encode i) = true

theorem init (ctx : Ctx) : Statement (.init ctx) := by
  refine ⟨by simp [rowOf, opcodeTable], ?_⟩
  simp only [rowOf, OpcodeRow.matchesWord, encode, beq_iff_eq]
  ext k hk
  interval_cases k <;> simp

theorem feedByte (data : Byte) : Statement (.feedByte data) := by
  refine ⟨by simp [rowOf, opcodeTable], ?_⟩
  simp only [rowOf, OpcodeRow.matchesWord, encode, beq_iff_eq]
  ext k hk
  interval_cases k <;> simp

theorem crcFold (acc : Acc) (data : Byte) : Statement (.crcFold acc data) := by
  refine ⟨by simp [rowOf, opcodeTable], ?_⟩
  simp only [rowOf, OpcodeRow.matchesWord, encode, beq_iff_eq]
  ext k hk
  interval_cases k <;> simp

end Sys2Proof.Laws.EncodesTableRow
end

