-- ==== Sys2Proof/Laws/State.lean ====
section
/-! SUPPORT. One lemma per field of State per update, true by rfl; `blk` is given as its updated record. -/

namespace Sys2Proof.Machine

variable (s : State)

@[simp] theorem State.setPState_blk (p : PState) : (s.setPState p).blk = { s.blk with pstate := p } := rfl
@[simp] theorem State.setPState_maxPayload (p : PState) : (s.setPState p).maxPayload = s.maxPayload := rfl
@[simp] theorem State.setPState_host (p : PState) : (s.setPState p).host = s.host := rfl
@[simp] theorem State.setPState_pins (p : PState) : (s.setPState p).pins = s.pins := rfl
@[simp] theorem State.setPState_sched (p : PState) : (s.setPState p).sched = s.sched := rfl
@[simp] theorem State.setPState_rsp (p : PState) : (s.setPState p).rsp = s.rsp := rfl
@[simp] theorem State.setPState_events (p : PState) : (s.setPState p).events = s.events := rfl
@[simp] theorem State.setPState_draws (p : PState) : (s.setPState p).draws = s.draws := rfl

@[simp] theorem State.setCnt_blk (c : Byte) : (s.setCnt c).blk = { s.blk with cnt := c } := rfl
@[simp] theorem State.setCnt_maxPayload (c : Byte) : (s.setCnt c).maxPayload = s.maxPayload := rfl
@[simp] theorem State.setCnt_host (c : Byte) : (s.setCnt c).host = s.host := rfl
@[simp] theorem State.setCnt_pins (c : Byte) : (s.setCnt c).pins = s.pins := rfl
@[simp] theorem State.setCnt_sched (c : Byte) : (s.setCnt c).sched = s.sched := rfl
@[simp] theorem State.setCnt_rsp (c : Byte) : (s.setCnt c).rsp = s.rsp := rfl
@[simp] theorem State.setCnt_events (c : Byte) : (s.setCnt c).events = s.events := rfl
@[simp] theorem State.setCnt_draws (c : Byte) : (s.setCnt c).draws = s.draws := rfl

@[simp] theorem State.setCtx_blk (c : Ctx) : (s.setCtx c).blk = { s.blk with ctx := c } := rfl
@[simp] theorem State.setCtx_maxPayload (c : Ctx) : (s.setCtx c).maxPayload = s.maxPayload := rfl
@[simp] theorem State.setCtx_host (c : Ctx) : (s.setCtx c).host = s.host := rfl
@[simp] theorem State.setCtx_pins (c : Ctx) : (s.setCtx c).pins = s.pins := rfl
@[simp] theorem State.setCtx_sched (c : Ctx) : (s.setCtx c).sched = s.sched := rfl
@[simp] theorem State.setCtx_rsp (c : Ctx) : (s.setCtx c).rsp = s.rsp := rfl
@[simp] theorem State.setCtx_events (c : Ctx) : (s.setCtx c).events = s.events := rfl
@[simp] theorem State.setCtx_draws (c : Ctx) : (s.setCtx c).draws = s.draws := rfl

@[simp] theorem State.setInitd_blk (v : Bool) : (s.setInitd v).blk = { s.blk with initd := v } := rfl
@[simp] theorem State.setInitd_maxPayload (v : Bool) : (s.setInitd v).maxPayload = s.maxPayload := rfl
@[simp] theorem State.setInitd_host (v : Bool) : (s.setInitd v).host = s.host := rfl
@[simp] theorem State.setInitd_pins (v : Bool) : (s.setInitd v).pins = s.pins := rfl
@[simp] theorem State.setInitd_sched (v : Bool) : (s.setInitd v).sched = s.sched := rfl
@[simp] theorem State.setInitd_rsp (v : Bool) : (s.setInitd v).rsp = s.rsp := rfl
@[simp] theorem State.setInitd_events (v : Bool) : (s.setInitd v).events = s.events := rfl
@[simp] theorem State.setInitd_draws (v : Bool) : (s.setInitd v).draws = s.draws := rfl

@[simp] theorem State.setDlvPend_blk (v : Bool) : (s.setDlvPend v).blk = { s.blk with dlvPend := v } := rfl
@[simp] theorem State.setDlvPend_maxPayload (v : Bool) : (s.setDlvPend v).maxPayload = s.maxPayload := rfl
@[simp] theorem State.setDlvPend_host (v : Bool) : (s.setDlvPend v).host = s.host := rfl
@[simp] theorem State.setDlvPend_pins (v : Bool) : (s.setDlvPend v).pins = s.pins := rfl
@[simp] theorem State.setDlvPend_sched (v : Bool) : (s.setDlvPend v).sched = s.sched := rfl
@[simp] theorem State.setDlvPend_rsp (v : Bool) : (s.setDlvPend v).rsp = s.rsp := rfl
@[simp] theorem State.setDlvPend_events (v : Bool) : (s.setDlvPend v).events = s.events := rfl
@[simp] theorem State.setDlvPend_draws (v : Bool) : (s.setDlvPend v).draws = s.draws := rfl

@[simp] theorem State.memWrite_blk (a : Nat) (v : Byte) : (s.memWrite a v).blk = { s.blk with mem := s.blk.mem.write a v } := rfl
@[simp] theorem State.memWrite_maxPayload (a : Nat) (v : Byte) : (s.memWrite a v).maxPayload = s.maxPayload := rfl
@[simp] theorem State.memWrite_host (a : Nat) (v : Byte) : (s.memWrite a v).host = s.host := rfl
@[simp] theorem State.memWrite_pins (a : Nat) (v : Byte) : (s.memWrite a v).pins = s.pins := rfl
@[simp] theorem State.memWrite_sched (a : Nat) (v : Byte) : (s.memWrite a v).sched = s.sched := rfl
@[simp] theorem State.memWrite_rsp (a : Nat) (v : Byte) : (s.memWrite a v).rsp = s.rsp := rfl
@[simp] theorem State.memWrite_events (a : Nat) (v : Byte) : (s.memWrite a v).events = s.events := rfl
@[simp] theorem State.memWrite_draws (a : Nat) (v : Byte) : (s.memWrite a v).draws = s.draws := rfl

@[simp] theorem State.raiseFault_blk (f : FaultCode) : (s.raiseFault f).blk = { s.blk with fault := f } := rfl
@[simp] theorem State.raiseFault_maxPayload (f : FaultCode) : (s.raiseFault f).maxPayload = s.maxPayload := rfl
@[simp] theorem State.raiseFault_host (f : FaultCode) : (s.raiseFault f).host = s.host := rfl
@[simp] theorem State.raiseFault_pins (f : FaultCode) : (s.raiseFault f).pins = s.pins := rfl
@[simp] theorem State.raiseFault_sched (f : FaultCode) : (s.raiseFault f).sched = s.sched := rfl
@[simp] theorem State.raiseFault_rsp (f : FaultCode) : (s.raiseFault f).rsp = s.rsp := rfl
@[simp] theorem State.raiseFault_events (f : FaultCode) : (s.raiseFault f).events = s.events := rfl
@[simp] theorem State.raiseFault_draws (f : FaultCode) : (s.raiseFault f).draws = s.draws := rfl

@[simp] theorem State.clear_blk : s.clear.blk = { s.blk with pstate := .empty, cnt := 0, mem := Memory.zeroed } := rfl
@[simp] theorem State.clear_maxPayload : s.clear.maxPayload = s.maxPayload := rfl
@[simp] theorem State.clear_host : s.clear.host = s.host := rfl
@[simp] theorem State.clear_pins : s.clear.pins = s.pins := rfl
@[simp] theorem State.clear_sched : s.clear.sched = s.sched := rfl
@[simp] theorem State.clear_rsp : s.clear.rsp = s.rsp := rfl
@[simp] theorem State.clear_events : s.clear.events = s.events := rfl
@[simp] theorem State.clear_draws : s.clear.draws = s.draws := rfl

@[simp] theorem State.emit_blk (e : Event) : (s.emit e).blk = s.blk := rfl
@[simp] theorem State.emit_maxPayload (e : Event) : (s.emit e).maxPayload = s.maxPayload := rfl
@[simp] theorem State.emit_host (e : Event) : (s.emit e).host = s.host := rfl
@[simp] theorem State.emit_pins (e : Event) : (s.emit e).pins = s.pins := rfl
@[simp] theorem State.emit_sched (e : Event) : (s.emit e).sched = s.sched := rfl
@[simp] theorem State.emit_rsp (e : Event) : (s.emit e).rsp = s.rsp := rfl
@[simp] theorem State.emit_events (e : Event) : (s.emit e).events = s.events ++ [e] := rfl
@[simp] theorem State.emit_draws (e : Event) : (s.emit e).draws = s.draws := rfl

@[simp] theorem State.respond_blk (v : Acc) : (s.respond v).blk = s.blk := rfl
@[simp] theorem State.respond_maxPayload (v : Acc) : (s.respond v).maxPayload = s.maxPayload := rfl
@[simp] theorem State.respond_host (v : Acc) : (s.respond v).host = s.host := rfl
@[simp] theorem State.respond_pins (v : Acc) : (s.respond v).pins = s.pins := rfl
@[simp] theorem State.respond_sched (v : Acc) : (s.respond v).sched = s.sched := rfl
@[simp] theorem State.respond_rsp (v : Acc) : (s.respond v).rsp = some v := rfl
@[simp] theorem State.respond_events (v : Acc) : (s.respond v).events = s.events := rfl
@[simp] theorem State.respond_draws (v : Acc) : (s.respond v).draws = s.draws := rfl

@[simp] theorem State.present_blk : s.present.blk = { s.blk with pstate := .gotComplete, dlvPend := true } := rfl
@[simp] theorem State.present_maxPayload : s.present.maxPayload = s.maxPayload := rfl
@[simp] theorem State.present_host : s.present.host = s.host := rfl
@[simp] theorem State.present_pins : s.present.pins = s.pins := rfl
@[simp] theorem State.present_sched : s.present.sched = s.sched := rfl
@[simp] theorem State.present_rsp : s.present.rsp = s.rsp := rfl
@[simp] theorem State.present_events : s.present.events = s.events := rfl
@[simp] theorem State.present_draws : s.present.draws = s.draws := rfl

@[simp] theorem State.consumeWord_blk : s.consumeWord.blk = s.blk := rfl
@[simp] theorem State.consumeWord_maxPayload : s.consumeWord.maxPayload = s.maxPayload := rfl
@[simp] theorem State.consumeWord_host : s.consumeWord.host = s.host.tail := rfl
@[simp] theorem State.consumeWord_pins : s.consumeWord.pins = s.pins := rfl
@[simp] theorem State.consumeWord_sched : s.consumeWord.sched = s.sched := rfl
@[simp] theorem State.consumeWord_rsp : s.consumeWord.rsp = s.rsp := rfl
@[simp] theorem State.consumeWord_events : s.consumeWord.events = s.events := rfl
@[simp] theorem State.consumeWord_draws : s.consumeWord.draws = s.draws := rfl

@[simp] theorem State.resetBlock_blk :
    s.resetBlock.blk =
      { pstate := .empty, cnt := 0, mem := Memory.ofBytes (Config.freeStorageByte s.draws) s.storageSize, ctx := Config.freeCtx s.draws, initd := false, dlvPend := false, fault := .none } := rfl
@[simp] theorem State.resetBlock_maxPayload : s.resetBlock.maxPayload = s.maxPayload := rfl
@[simp] theorem State.resetBlock_host : s.resetBlock.host = s.host := rfl
@[simp] theorem State.resetBlock_pins : s.resetBlock.pins = s.pins := rfl
@[simp] theorem State.resetBlock_sched : s.resetBlock.sched = s.sched := rfl
@[simp] theorem State.resetBlock_rsp : s.resetBlock.rsp = s.rsp := rfl
@[simp] theorem State.resetBlock_events : s.resetBlock.events = s.events := rfl
@[simp] theorem State.resetBlock_draws : s.resetBlock.draws = s.draws := rfl

@[simp] theorem State.beginStep_blk : s.beginStep.blk = s.blk := rfl
@[simp] theorem State.beginStep_maxPayload : s.beginStep.maxPayload = s.maxPayload := rfl
@[simp] theorem State.beginStep_host : s.beginStep.host = s.host := rfl
@[simp] theorem State.beginStep_pins : s.beginStep.pins = s.pins := rfl
@[simp] theorem State.beginStep_sched : s.beginStep.sched = s.sched.tail := rfl
@[simp] theorem State.beginStep_rsp : s.beginStep.rsp = none := rfl
@[simp] theorem State.beginStep_events : s.beginStep.events = s.events := rfl
@[simp] theorem State.beginStep_draws : s.beginStep.draws = s.draws + 1 := rfl

@[simp] theorem State.offer_blk (w : CmdWord) : (s.offer w).blk = s.blk := rfl
@[simp] theorem State.offer_maxPayload (w : CmdWord) : (s.offer w).maxPayload = s.maxPayload := rfl
@[simp] theorem State.offer_host (w : CmdWord) : (s.offer w).host = s.host ++ [w] := rfl
@[simp] theorem State.offer_pins (w : CmdWord) : (s.offer w).pins = s.pins := rfl
@[simp] theorem State.offer_sched (w : CmdWord) : (s.offer w).sched = s.sched := rfl
@[simp] theorem State.offer_rsp (w : CmdWord) : (s.offer w).rsp = s.rsp := rfl
@[simp] theorem State.offer_events (w : CmdWord) : (s.offer w).events = s.events := rfl
@[simp] theorem State.offer_draws (w : CmdWord) : (s.offer w).draws = s.draws := rfl

@[simp] theorem State.driveSink_blk (r : Bool) (a : Byte) : (s.driveSink r a).blk = s.blk := rfl
@[simp] theorem State.driveSink_maxPayload (r : Bool) (a : Byte) : (s.driveSink r a).maxPayload = s.maxPayload := rfl
@[simp] theorem State.driveSink_host (r : Bool) (a : Byte) : (s.driveSink r a).host = s.host := rfl
@[simp] theorem State.driveSink_pins (r : Bool) (a : Byte) : (s.driveSink r a).pins = { s.pins with dlvReady := r, dlvAddr := a } := rfl
@[simp] theorem State.driveSink_sched (r : Bool) (a : Byte) : (s.driveSink r a).sched = s.sched := rfl
@[simp] theorem State.driveSink_rsp (r : Bool) (a : Byte) : (s.driveSink r a).rsp = s.rsp := rfl
@[simp] theorem State.driveSink_events (r : Bool) (a : Byte) : (s.driveSink r a).events = s.events := rfl
@[simp] theorem State.driveSink_draws (r : Bool) (a : Byte) : (s.driveSink r a).draws = s.draws := rfl

@[simp] theorem State.driveReset_blk (l : Bool) : (s.driveReset l).blk = s.blk := rfl
@[simp] theorem State.driveReset_maxPayload (l : Bool) : (s.driveReset l).maxPayload = s.maxPayload := rfl
@[simp] theorem State.driveReset_host (l : Bool) : (s.driveReset l).host = s.host := rfl
@[simp] theorem State.driveReset_pins (l : Bool) : (s.driveReset l).pins = { s.pins with rst := l } := rfl
@[simp] theorem State.driveReset_sched (l : Bool) : (s.driveReset l).sched = s.sched := rfl
@[simp] theorem State.driveReset_rsp (l : Bool) : (s.driveReset l).rsp = s.rsp := rfl
@[simp] theorem State.driveReset_events (l : Bool) : (s.driveReset l).events = s.events := rfl
@[simp] theorem State.driveReset_draws (l : Bool) : (s.driveReset l).draws = s.draws := rfl

@[simp] theorem State.memRead_memWrite_def (a : Nat) (v : Byte) (off : Nat) :
    (s.memWrite a v).memRead off = (s.blk.mem.write a v).read off := rfl

end Sys2Proof.Machine
end

