-- ==== Sys2Proof/Laws/Receiver.lean ====
section
/-! SUPPORT. What the meanings of the commands and the port events can do, said once per shared operation. -/

namespace Sys2Proof.Machine

theorem sameOutside.refl (s : State) : sameOutside s s := ⟨rfl, rfl, rfl, rfl, rfl, rfl, rfl⟩

theorem sameStatus.refl (s : State) : sameStatus s s := ⟨rfl, rfl, rfl, rfl⟩

/-- `Complete()` presents or clears, by the checksum comparison. -/
theorem complete_cases (s : State) :
    (s.blk.calc = s.blk.ck ∧ s.complete = s.present) ∨ (s.blk.calc ≠ s.blk.ck ∧ s.complete = s.clear) := by
  unfold State.complete
  by_cases h : s.blk.calc = s.blk.ck <;> simp [h]

theorem complete_sameOutside {s u : State} (hu : sameOutside s u) : sameOutside s u.complete := by
  obtain ⟨h1, h2, h3, h4, h5, h6, h7⟩ := hu
  rcases complete_cases u with ⟨-, h⟩ | ⟨-, h⟩ <;> rw [h] <;> exact ⟨h1, h2, h3, h4, h5, h6, h7⟩

/-- Storing one byte in a canonical storage. -/
theorem memWrite_storesByte {s : State} (h : s.blk.mem.wf = true) (a : Nat) (v : Byte) : storesByte s (s.memWrite a v) a v :=
  fun off => Memory.read_write h a v off

/-- Everything FEED_BYTE can do when it answers a next state. -/
theorem execFeedByte_cases {b : Byte} {s t : State} (h : execFeedByte b s = .next t) :
    (s.blk.initd = false ∧ t = s.raiseFault .notInitialized) ∨
    s.blk.initd = true ∧
      (((s.blk.pstate = .empty ∨ s.blk.pstate = .gotComplete) ∧
          (b = startMarker ∧ t = (s.memWrite sopOffset b).setPState .gotStart ∨ b ≠ startMarker ∧ t = s)) ∨
       (s.blk.pstate = .gotStart ∧ t = (s.memWrite typeOffset b).setPState .gotType) ∨
       (s.blk.pstate = .gotType ∧
          (b ≤ s.maxPayload ∧ t = ((s.memWrite lenOffset b).setCnt 0).setPState .gotLength ∨ ¬ b ≤ s.maxPayload ∧ t = s.clear)) ∨
       (s.blk.pstate = .gotLength ∧ t = (s.memWrite ckloOffset b).setPState .gotChecksumLo) ∨
       (s.blk.pstate = .gotChecksumLo ∧
          ((s.memWrite ckhiOffset b).blk.len = 0 ∧ t = (s.memWrite ckhiOffset b).complete ∨
           (s.memWrite ckhiOffset b).blk.len ≠ 0 ∧ t = (s.memWrite ckhiOffset b).setPState .receivingPayload)) ∨
       (s.blk.pstate = .receivingPayload ∧ s.hasOffset (payloadOffset s.blk.cnt.toNat) = true ∧
          let s1 := (s.memWrite (payloadOffset s.blk.cnt.toNat) b).setCnt (s.blk.cnt + 1)
          (s1.blk.cnt = s1.blk.len ∧ t = s1.complete ∨ s1.blk.cnt ≠ s1.blk.len ∧ t = s1))) := by
  unfold execFeedByte at h
  split at h
  · rename_i hi
    refine .inr ⟨hi, ?_⟩
    have hE : ∀ {x : Result}, feedEmpty b s = x → x = .next t →
        (b = startMarker ∧ t = (s.memWrite sopOffset b).setPState .gotStart ∨ b ≠ startMarker ∧ t = s) := by
      rintro _ rfl h
      unfold feedEmpty at h
      split at h <;> cases h
      · exact .inl ⟨‹_›, rfl⟩
      · exact .inr ⟨‹_›, rfl⟩
    split at h <;> rename_i hp
    · exact .inl ⟨.inl hp, hE rfl h⟩
    · cases h; exact .inr (.inl ⟨hp, rfl⟩)
    · refine .inr (.inr (.inl ⟨hp, ?_⟩))
      unfold feedGotType at h
      split at h <;> cases h
      · exact .inl ⟨‹_›, rfl⟩
      · exact .inr ⟨‹_›, rfl⟩
    · cases h; exact .inr (.inr (.inr (.inl ⟨hp, rfl⟩)))
    · refine .inr (.inr (.inr (.inr (.inl ⟨hp, ?_⟩))))
      unfold feedGotChecksumLo at h
      simp only at h
      split at h <;> cases h
      · exact .inl ⟨‹_›, rfl⟩
      · exact .inr ⟨‹_›, rfl⟩
    · refine .inr (.inr (.inr (.inr (.inr ⟨hp, ?_⟩))))
      unfold feedReceivingPayload at h
      simp only at h
      split at h
      · rename_i ho
        refine ⟨ho, ?_⟩
        split at h <;> cases h
        · exact .inl ⟨‹_›, rfl⟩
        · exact .inr ⟨‹_›, rfl⟩
      · cases h
    · exact .inl ⟨.inr hp, hE rfl h⟩
    · cases h
  · cases h
    exact .inl ⟨by simpa using ‹¬ s.blk.initd = true›, rfl⟩

/-- FEED_BYTE touches nothing outside the block. -/
theorem execFeedByte_sameOutside {b : Byte} {s t : State} (h : execFeedByte b s = .next t) : sameOutside s t := by
  have hr : sameOutside s s := .refl s
  obtain ⟨-, rfl⟩ | ⟨-, ⟨-, ⟨-, rfl⟩ | ⟨-, rfl⟩⟩ | ⟨-, rfl⟩ | ⟨-, ⟨-, rfl⟩ | ⟨-, rfl⟩⟩ | ⟨-, rfl⟩ | ⟨-, ⟨-, rfl⟩ | ⟨-, rfl⟩⟩ |
    ⟨-, -, ⟨-, rfl⟩ | ⟨-, rfl⟩⟩⟩ := execFeedByte_cases h
  all_goals first | exact hr | exact ⟨rfl, rfl, rfl, rfl, rfl, rfl, rfl⟩ | exact complete_sameOutside ⟨rfl, rfl, rfl, rfl, rfl, rfl, rfl⟩

/-- FEED_BYTE refuses nothing, and stops only in PSTATE encoding 7 and at an offset beyond the storage. -/
theorem execFeedByte_stops {b : Byte} {s : State} :
    (∀ r, execFeedByte b s ≠ .refused r) ∧
    (∀ r, execFeedByte b s = .fault r → s.blk.initd = true ∧
      (s.blk.pstate = .code7 ∧ r = .pstateCode7 ∨
       s.blk.pstate = .receivingPayload ∧ s.hasOffset (payloadOffset s.blk.cnt.toNat) = false ∧ r = .noSuchOffset)) := by
  unfold execFeedByte feedGotComplete feedEmpty feedGotStart feedGotType feedGotLength feedGotChecksumLo feedReceivingPayload
  constructor
  · intro r h
    repeat' (first | cases h | split at h | dsimp only at h)
  · intro r h
    split at h <;> rename_i hi
    · refine ⟨hi, ?_⟩
      split at h <;> rename_i hp
      · split at h <;> cases h
      · cases h
      · split at h <;> cases h
      · cases h
      · simp only at h; split at h <;> cases h
      · simp only at h
        split at h <;> rename_i ho
        · split at h <;> cases h
        · cases h; exact .inr ⟨hp, by simpa using ho, rfl⟩
      · split at h <;> cases h
      · cases h; exact .inl ⟨hp, rfl⟩
    · cases h

/-- Everything TAKE can do. -/
theorem take_cases (s : State) :
    (s.payloadInStorage = true ∧ take s = .next (((s.emit (.delivery s.blk.delivery)).setDlvPend false).clear)) ∨
    (s.payloadInStorage = false ∧ take s = .fault .noSuchOffset) := by
  unfold take
  by_cases h : s.payloadInStorage = true <;> simp [h]

theorem execInit_eq (ctx : Ctx) (s : State) :
    execInit ctx s = .next { s with blk := { s.blk with pstate := .empty, cnt := 0, mem := Memory.zeroed, ctx := ctx, initd := true } } :=
  rfl

theorem execCrcFold_eq (acc : Acc) (data : Byte) (s : State) :
    execCrcFold acc data s =
      .next { s with rsp := some (crcFold data acc), events := s.events ++ [.crcResult (crcFold data acc)] } := rfl

end Sys2Proof.Machine
end

