-- ==== Sys2Proof/Laws/Step.lean ====
section
/-! SUPPORT. Everything one step can do. -/

namespace Sys2Proof.Machine

/-- cmd_ready = 1 exactly when DLV_PEND = 0 and FAULT = 0 (R165). -/
theorem cmdReady_iff (b : Block) : b.cmdReady = true ↔ b.dlvPend = false ∧ b.fault = .none := by
  simp [Block.cmdReady]

/-- TAKE is enabled exactly when a delivery is pending and dlv_ready is asserted (R161). -/
theorem takeEnabled_iff (s : State) : s.takeEnabled = true ↔ s.blk.dlvPend = true ∧ s.pins.dlvReady = true := by
  simp [State.takeEnabled]

theorem unlessReset_low {s : State} (h : s.pins.rst = false) (f : State → Result) : s.unlessReset f = f s := by
  simp [State.unlessReset, h]

theorem unlessReset_high {s : State} (h : s.pins.rst = true) (f : State → Result) : s.unlessReset f = .next s.resetBlock := by
  simp [State.unlessReset, h]

/-- Everything BLOCK can do while rst = 0: TAKE, an accepted command, a decode fault, or nothing. -/
theorem transact_cases {s t : State} (h : s.transact = .next t) :
    (s.takeEnabled = true ∧ take s = .next t) ∨
    (∃ w ws, s.takeEnabled = false ∧ s.blk.cmdReady = true ∧ s.host = w :: ws ∧
      ((∃ i, decode w = .ok i ∧ exec i s.consumeWord = .next t) ∨
       (∃ e, decode w = .error e ∧ t = s.consumeWord.raiseFault (faultOfDecode e)))) ∨
    (s.takeEnabled = false ∧ (s.host = [] ∨ s.blk.cmdReady = false) ∧ t = s) := by
  unfold State.transact at h
  split at h <;> rename_i ht
  · exact .inl ⟨ht, h⟩
  have ht : s.takeEnabled = false := by simpa using ht
  split at h <;> rename_i hh
  · cases h; exact .inr (.inr ⟨ht, .inl hh, rfl⟩)
  split at h <;> rename_i hc
  · refine .inr (.inl ⟨_, _, ht, hc, hh, ?_⟩)
    unfold performWord at h
    split at h
    · exact .inl ⟨_, ‹_›, h⟩
    · cases h; exact .inr ⟨_, ‹_›, rfl⟩
  · cases h; exact .inr (.inr ⟨ht, .inr (by simpa using hc), rfl⟩)

/-- The state the agents' side of the ports is in when the step's transaction happens: the agent whose turn it is has driven its signals. -/
def State.driven (s : State) : State :=
  match s.nextMove with
  | .block => s.beginStep
  | .host w => s.beginStep.offer w
  | .sink ready addr => s.beginStep.driveSink ready addr
  | .reset level => s.beginStep.driveReset level

@[simp] theorem State.driven_blk (s : State) : s.driven.blk = s.blk := by unfold State.driven; split <;> rfl
@[simp] theorem State.driven_maxPayload (s : State) : s.driven.maxPayload = s.maxPayload := by unfold State.driven; split <;> rfl
@[simp] theorem State.driven_sched (s : State) : s.driven.sched = s.sched.tail := by unfold State.driven; split <;> rfl
@[simp] theorem State.driven_rsp (s : State) : s.driven.rsp = none := by unfold State.driven; split <;> rfl
@[simp] theorem State.driven_events (s : State) : s.driven.events = s.events := by unfold State.driven; split <;> rfl
@[simp] theorem State.driven_draws (s : State) : s.driven.draws = s.draws + 1 := by unfold State.driven; split <;> rfl

theorem State.driven_rst (s : State) : s.driven.pins.rst = s.rstInStep := by
  unfold State.driven State.rstInStep; cases s.nextMove <;> rfl

/-- The drive leaves the words on offer, or HOST adds one behind them. -/
theorem State.driven_host (s : State) : s.driven.host = s.host ∨ ∃ w, s.nextMove = .host w ∧ s.driven.host = s.host ++ [w] := by
  unfold State.driven; cases h : s.nextMove
  · exact .inl rfl
  · exact .inr ⟨_, rfl, rfl⟩
  · exact .inl rfl
  · exact .inl rfl

/-- In a step with rst = 1 the block is reset, whichever agent steps. -/
theorem step_reset {s : State} (h : s.rstInStep = true) : step s = .next s.driven.resetBlock := by
  rw [← s.driven_rst] at h
  unfold step; unfold State.driven at *
  cases hm : s.nextMove <;> rw [hm] at h <;> exact unlessReset_high h _

/-- A step with rst = 0 is the agent's transaction in the driven state. -/
theorem step_low {s : State} (h : s.rstInStep = false) :
    step s = match s.nextMove with
      | .block => s.driven.transact
      | .host _ => .next s.driven
      | .sink _ _ => s.driven.takeIfEnabled
      | .reset _ => .next s.driven := by
  rw [← s.driven_rst] at h
  unfold step; unfold State.driven at *
  cases hm : s.nextMove <;> rw [hm] at h <;> exact unlessReset_low h _

/-- The coming step takes a pending delivery exactly when `readyInStep` says so. -/
theorem takeEnabled_driven {s : State} (h : s.nextMove = .block ∨ ∃ r a, s.nextMove = .sink r a) :
    s.driven.takeEnabled = (s.blk.dlvPend && s.readyInStep) := by
  unfold State.takeEnabled State.driven State.readyInStep
  rcases h with h | ⟨r, a, h⟩ <;> simp [h]

/-- Everything one step can do: RESET, TAKE (in SINK's step or BLOCK's), an accepted command, a decode fault, or nothing but the drive. -/
theorem step_cases {s t : State} (h : step s = .next t) :
    (s.rstInStep = true ∧ t = s.driven.resetBlock) ∨
    (s.rstInStep = false ∧
      ((s.readyInStep = true ∧ s.blk.dlvPend = true ∧ take s.driven = .next t ∧ s.driven.host = s.host) ∨
       (s.nextMove = .block ∧ s.blk.cmdReady = true ∧
         ∃ w ws, s.host = w :: ws ∧
           ((∃ i, decode w = .ok i ∧ exec i s.driven.consumeWord = .next t) ∨
            (∃ e, decode w = .error e ∧ t = s.driven.consumeWord.raiseFault (faultOfDecode e)))) ∨
       ((s.readyInStep = false ∨ s.blk.dlvPend = false) ∧ t = s.driven))) := by
  cases hr : s.rstInStep
  swap
  · rw [step_reset hr] at h; cases h; exact .inl ⟨rfl, rfl⟩
  refine .inr ⟨rfl, ?_⟩
  rw [step_low hr] at h
  cases hm : s.nextMove <;> rw [hm] at h <;> simp only at h
  · have hd : s.driven = s.beginStep := by unfold State.driven; rw [hm]
    have he := takeEnabled_driven (.inl hm)
    rcases transact_cases h with ⟨ht, h⟩ | ⟨w, ws, _, hc, hh, h⟩ | ⟨ht, -, rfl⟩
    · rw [he, Bool.and_eq_true] at ht
      exact .inl ⟨ht.2, ht.1, h, by rw [hd]; rfl⟩
    · exact .inr (.inl ⟨rfl, by simpa using hc, w, ws, by rw [hd] at hh; exact hh, h⟩)
    · rw [he, Bool.and_eq_false_iff] at ht
      exact .inr (.inr ⟨ht.symm, rfl⟩)
  · cases h; exact .inr (.inr ⟨.inl (by unfold State.readyInStep; rw [hm]), rfl⟩)
  · have he := takeEnabled_driven (.inr ⟨_, _, hm⟩)
    unfold State.takeIfEnabled at h
    split at h <;> rename_i ht <;> rw [he] at ht
    · rw [Bool.and_eq_true] at ht
      exact .inl ⟨ht.2, ht.1, h, by unfold State.driven; rw [hm]; rfl⟩
    · cases h
      rw [Bool.not_eq_true, Bool.and_eq_false_iff] at ht
      exact .inr (.inr ⟨ht.symm, rfl⟩)
  · cases h; exact .inr (.inr ⟨.inl (by unfold State.readyInStep; rw [hm]), rfl⟩)

/-- A run of `k + 1` steps of any machine is a step and a run of `k`. -/
theorem run_succ (M : Host.Core) (k : Nat) (s t : M.State) :
    M.run (k + 1) s = .next t ↔ ∃ u, M.step s = .next u ∧ M.run k u = .next t := by
  rw [Host.Core.run]
  cases h : M.step s <;> simp

theorem runsTo_zero (s t : State) : runsTo 0 s t ↔ s = t :=
  ⟨fun h => Host.Outcome.next.inj h, fun h => congrArg Host.Outcome.next h⟩

theorem runsTo_succ (k : Nat) (s t : State) : runsTo (k + 1) s t ↔ ∃ u, step s = .next u ∧ runsTo k u t :=
  run_succ Sys2Proof.core k s t

end Sys2Proof.Machine
end

