-- ==== Sys2Proof/Tests/Slice0.lean ====
section
/-! SUPPORT. The model's own tests. Expected results come from spec/95_test_vectors.md (V-C, V-R, V-K, V-D, named beside each test) or from
the encodings of 30_encoding.md; and, for every statement with hypotheses, a witness that meets them all. -/

namespace Sys2Proof.Tests

open Sys2Proof.Machine

/-! ### Small states -/

/-- A live block (INITD = 1, FAULT = 0, no delivery) in a parse state, with CNT and storage cells. -/
def live (p : PState) (cnt : Byte) (mem : Memory) : State :=
  { State.reset with blk := { Block.reset with pstate := p, cnt := cnt, mem := mem, initd := true } }

/-- The state after a meaning or a step, none when it stops. -/
def after : Result → Option State
  | .next t => some t
  | _ => none

/-- What a test looks at: PSTATE, CNT, the storage, DLV_PEND and FAULT, and for some tests the events and the words on offer. -/
structure View where
  pstate : PState
  cnt    : Byte
  mem    : Memory
  pend   : Bool
  fault  : FaultCode
  events : List Event := []
  host   : List CmdWord := []
deriving DecidableEq, Repr

def view (t : State) : View := ⟨t.blk.pstate, t.blk.cnt, t.blk.mem, t.blk.dlvPend, t.blk.fault, t.events, t.host⟩

/-- The view of a live block with nothing emitted and nothing on offer. -/
def sees (p : PState) (cnt : Byte) (mem : Memory) (pend : Bool) : View := ⟨p, cnt, mem, pend, .none, [], []⟩

/-- The block state of V-R-14 before its last byte: type 05, LEN 3, CK 0xA434, CNT 2, payload 10 20. -/
def lastByteNext : State := live .receivingPayload 2 [(0, 0xA1), (1, 5), (2, 3), (3, 0x34), (4, 0xA4), (5, 0x10), (6, 0x20)]

/-- The pending delivery of V-K-4: after V-R-14, with CTX 0xABCDEF. -/
def pendingRecord : State :=
  let s := live .gotComplete 3 [(0, 0xA1), (1, 5), (2, 3), (3, 0x34), (4, 0xA4), (5, 0x10), (6, 0x20), (7, 0x30)]
  { s with blk := { s.blk with dlvPend := true, ctx := 0xABCDEF } }

/-- `s` with words on offer and the sink ready. -/
def offering (ws : List CmdWord) (s : State) : State := { s with host := ws, pins := { s.pins with dlvReady := true } }

/-! ### Decoding, from the encodings of R78 to R80 -/

/-- V-K-1, V-D-15: words of INIT. -/
theorem test_decode_init : decode 0x10000001 = .ok (.init 1) ∧ decode 0x10FFFFFF = .ok (.init 0xFFFFFF) := by decide

/-- R79: `0010 0000 00000000 00000000 dddddddd`. -/
theorem test_decode_feedByte :
    decode 0b00100000000000000000000010100001 = .ok (.feedByte 0xA1) ∧ decode 0x20000041 = .ok (.feedByte 0x41) := by decide

/-- V-C-3, V-C-8, V-D-14: words of CRC_FOLD. -/
theorem test_decode_crcFold :
    decode 0x30FFFF01 = .ok (.crcFold 0xFFFF 0x01) ∧ decode 0x30123400 = .ok (.crcFold 0x1234 0) ∧
    decode 0x300000FF = .ok (.crcFold 0 0xFF) := by decide

/-- V-D-1 to V-D-9: illegal words, by name. -/
theorem test_decode_rejects :
    [0x00000000, 0x40000000, 0xF0000000, 0x0F000000].map decode = List.replicate 4 (.error .illegalOpcode) ∧
    [0x21000041, 0x20000100, 0x2000FF00, 0x31000000, 0x1F000000].map decode = List.replicate 5 (.error .reservedField) := by decide

theorem test_decodeTableWord :
    decodeTableWord 32 0x10000000 = some (.init 0) ∧ decodeTableWord 32 0x20000000 = some (.feedByte 0) ∧
    decodeTableWord 32 0x30000000 = some (.crcFold 0 0) ∧ decodeTableWord 32 0 = none := by decide

/-- Each row's word, placed by withFetchWord after reset, is what the next step runs (FEED_BYTE then faults NOT_INITIALIZED, V-D-10). -/
theorem test_fetched_words_run_after_reset :
    (after (step (State.reset.withFetchWord 32 0x10000001))).map (fun t => (t.blk.ctx, t.blk.initd)) = some (1, true) ∧
    (after (step (State.reset.withFetchWord 32 0x20000041))).map (fun t => t.blk.fault) = some .notInitialized ∧
    (after (step (State.reset.withFetchWord 32 0x30FFFF01))).map (fun t => (t.rsp, t.blk)) =
      some (some 0x1E0E, State.reset.blk) := by decide

/-! ### Well-formedness: each check refuses an ill-formed term -/

theorem test_illformed_words :
    CmdWord.wellFormed 0x00000000 = false ∧ CmdWord.wellFormed 0x40000000 = false ∧ CmdWord.wellFormed 0x21000041 = false ∧
    CmdWord.wellFormed 0x20000100 = false ∧ CmdWord.wellFormed 0x1F000000 = false ∧ CmdWord.wellFormed 0x31000000 = false := by decide

theorem test_illformed_lines :
    AsmLine.wellFormed 250 (.init 0x1000000) = false ∧ AsmLine.wellFormed 250 (.feedByte 256) = false ∧
    AsmLine.wellFormed 250 (.crcFold 0x10000 0) = false ∧ AsmLine.wellFormed 250 (.crcFold 0 256) = false ∧
    AsmLine.wellFormed 250 (.word 0x100000000) = false ∧ AsmLine.wellFormed 250 (.feeds [0, 256]) = false ∧
    AsmLine.wellFormed 250 (.frame 256 []) = false ∧ AsmLine.wellFormed 250 (.frame 0 [256]) = false ∧
    AsmLine.wellFormed 2 (.frame 0 [1, 2, 3]) = false := by decide

/-! ### The assembler: lines of 95_test_vectors.md -/

theorem test_parse_lines :
    parseLine "INIT 0x000001        ; 0x10000001".toList = .ok (.init 1) ∧
    parseLine "FEED_BYTE 0xA1".toList = .ok (.feedByte 0xA1) ∧
    parseLine "CRC_FOLD 0xFFFF, 0x07        ; 0x30FFFF07".toList = .ok (.crcFold 0xFFFF 7) ∧
    parseLine "FEEDS 0x00, 0xFF, 19".toList = .ok (.feeds [0, 255, 19]) ∧ parseLine "FEEDS".toList = .ok (.feeds []) ∧
    parseLine "FRAME 0x05, [0x10, 0x20, 0x30]".toList = .ok (.frame 5 [16, 32, 48]) ∧
    parseLine "FRAME 0x01, []".toList = .ok (.frame 1 []) ∧ parseLine ".word 0x40000000".toList = .ok (.word 0x40000000) ∧
    parseLine "SINK: TAKE".toList = .ok .portEvent ∧ parseLine "RESET".toList = .ok .portEvent ∧
    parseLine "  ; only a comment".toList = .ok .blank := by decide

theorem test_parse_refuses :
    parseLine "FEED 0xA1".toList = .error .unknownMnemonic ∧ parseLine "INIT 1, 2".toList = .error .badOperands ∧
    parseLine "CRC_FOLD 1".toList = .error .badOperands ∧ parseLine "FEED_BYTE 0x".toList = .error .badOperands := by decide

/-- The words of `FRAME 0x01, []` in program P1. -/
theorem test_assemble_frame :
    assemble 250 (.frame 1 []) = some [0x200000A1, 0x20000001, 0x20000000, 0x20000060, 0x200000E9] := by decide

/-! ### The Checksum Engine -/

/-- V-C-1 to V-C-13. -/
theorem test_crcFold_vectors :
    crcFold 0x00 0xFFFF = 0x0F87 ∧ crcFold 0xFF 0xFFFF = 0x00FF ∧ crcFold 0x01 0xFFFF = 0x1E0E ∧ crcFold 0x00 0x1E0E = 0xE960 ∧
    crcFold 0x00 0x0000 = 0x0000 ∧ crcFold 0xFF 0x00FF = 0x0000 ∧ crcFold 0xA1 0xFFFF = 0xBB04 ∧ crcFold 0x00 0x1234 = 0x77B5 ∧
    crcFold 0x12 0xABCD = 0x2ED1 ∧ crcFold 0x00 0x0100 = 0x0001 ∧ crcFold 0x00 0x8000 = 0x0080 ∧ crcFold 0xFF 0xFF00 = 0x0F87 ∧
    crcFold 0xFF 0x0000 = 0x0F78 := by decide

/-- V-C-14 to V-C-21, in the bit-serial form. -/
theorem test_bitSerial_vectors :
    [0x01, 0x02, 0x04, 0x08, 0x10, 0x20, 0x40, 0x80].map (fun b => bitSerial b 0) =
      [0x1189, 0x2312, 0x4624, 0x8C48, 0x1081, 0x2102, 0x4204, 0x8408] := by decide

/-- V-C-22, V-C-23, V-C-24, and the collision V-C-27, V-C-28 of 90_conflicts.md C3. -/
theorem test_crc16_vectors :
    crc16 seed [] = 0xFFFF ∧ crc16 seed [0x01, 0x00] = 0xE960 ∧
    crc16 seed [0x31, 0x32, 0x33, 0x34, 0x35, 0x36, 0x37, 0x38, 0x39] = 0x6F91 ∧
    crc16 seed [0x0F, 0x03, 0xAD, 0xBC, 0xCB] = 0x6400 ∧ crc16 seed [0x0F, 0x02, 0xAD, 0xBC] = 0x6400 := by decide

/-- V-R-28, V-R-33: FrameBytes; a payload longer than MAX_PAYLOAD has no frame. -/
theorem test_frameBytes :
    frameBytes 250 0x05 [0x10, 0x20, 0x30] = some [0xA1, 0x05, 0x03, 0x34, 0xA4, 0x10, 0x20, 0x30] ∧
    frameBytes 250 0x00 [] = some [0xA1, 0x00, 0x00, 0xB8, 0xF0] ∧ frameBytes 0 0x42 [] = some [0xA1, 0x42, 0x00, 0x6E, 0x85] ∧
    frameBytes 2 0x05 [0x10, 0x20, 0x30] = none := by decide

/-! ### The commands -/

/-- V-K-2: INIT in the middle of a frame. -/
theorem test_init_mid_frame :
    (after (exec (.init 9) lastByteNext)).map (fun t => (view t, t.blk.ctx, t.blk.initd)) =
      some (sees .empty 0 [] false, 9, true) := by decide

/-- V-K-9, V-D-11: CRC_FOLD's result, with the block untouched. -/
theorem test_crcFold_result :
    (after (exec (.crcFold 0x1234 0x00) lastByteNext)).map (fun t => (t.rsp, t.events, t.blk)) =
      some (some 0x77B5, [.crcResult 0x77B5], lastByteNext.blk) := by decide

/-- V-R-1, V-R-3, V-R-6, V-R-7, V-R-10, V-R-13, V-R-15: one byte in each parse state. -/
theorem test_feedByte_rows :
    (after (exec (.feedByte 0xA1) (live .empty 0 []))).map view = some (sees .gotStart 0 [(0, 0xA1)] false) ∧
    (after (exec (.feedByte 0xA1) (live .gotStart 0 [(0, 0xA1)]))).map view =
      some (sees .gotType 0 [(0, 0xA1), (1, 0xA1)] false) ∧
    (after (exec (.feedByte 0xFA) (live .gotType 0 [(0, 0xA1), (1, 7)]))).map view =
      some (sees .gotLength 0 [(0, 0xA1), (1, 7), (2, 0xFA)] false) ∧
    (after (exec (.feedByte 0xFB) (live .gotType 0 [(0, 0xA1), (1, 7)]))).map view = some (sees .empty 0 [] false) ∧
    (after (exec (.feedByte 0x60) (live .gotLength 0 [(0, 0xA1), (1, 1)]))).map view =
      some (sees .gotChecksumLo 0 [(0, 0xA1), (1, 1), (3, 0x60)] false) ∧
    (after (exec (.feedByte 0xA4) (live .gotChecksumLo 0 [(0, 0xA1), (1, 5), (2, 3), (3, 0x34)]))).map view =
      some (sees .receivingPayload 0 [(0, 0xA1), (1, 5), (2, 3), (3, 0x34), (4, 0xA4)] false) ∧
    (after (exec (.feedByte 0xA1) (live .receivingPayload 0 [(0, 0xA1), (2, 3)]))).map view =
      some (sees .receivingPayload 1 [(0, 0xA1), (2, 3), (5, 0xA1)] false) := by decide

/-- V-R-11, V-R-12, V-R-14, V-R-16: completion with a match and with a mismatch. -/
theorem test_feedByte_completion :
    (after (exec (.feedByte 0xE9) (live .gotChecksumLo 0 [(0, 0xA1), (1, 1), (3, 0x60)]))).map view =
      some (sees .gotComplete 0 [(0, 0xA1), (1, 1), (3, 0x60), (4, 0xE9)] true) ∧
    (after (exec (.feedByte 0xE8) (live .gotChecksumLo 0 [(0, 0xA1), (1, 1), (3, 0x60)]))).map view =
      some (sees .empty 0 [] false) ∧
    (after (exec (.feedByte 0x30) lastByteNext)).map view =
      some (sees .gotComplete 3 [(0, 0xA1), (1, 5), (2, 3), (3, 0x34), (4, 0xA4), (5, 0x10), (6, 0x20), (7, 0x30)] true) ∧
    (after (exec (.feedByte 0x31) lastByteNext)).map view = some (sees .empty 0 [] false) := by decide

/-! ### The port events and the hold -/

/-- V-K-4: TAKE emits the record and clears, though a word is on offer. -/
theorem test_take :
    (after (step (offering [0x200000A1] pendingRecord))).map view =
      some ⟨.empty, 0, [], false, .none, [.delivery ⟨0xABCDEF, 0xA1, 5, 3, 0x34, 0xA4, [0x10, 0x20, 0x30]⟩], [0x200000A1]⟩ := by decide

/-- V-K-5, V-D-12: a word is held while a delivery pends, and after a fault. -/
theorem test_hold :
    (after (step { pendingRecord with host := [0x200000A1] })).map (fun t => (t.blk, t.host)) =
      some (pendingRecord.blk, [0x200000A1]) ∧
    (after (step (offering [0x10000001] (State.reset.raiseFault .reservedField)))).map view =
      some ⟨.empty, 0, [], false, .reservedField, [], [0x10000001]⟩ := by decide

/-- V-K-7, P7: RESET discards the pending delivery and leaves the word on offer. -/
theorem test_reset_event :
    (after (step { pendingRecord with host := [0x10000001], pins := ⟨true, 0, true⟩ })).map
      (fun t => (({ view t with mem := [] } : View), t.blk.initd)) = some (⟨.empty, 0, [], false, .none, [], [0x10000001]⟩, false) := by
  decide

/-- V-D-4, V-D-5: a decode fault is recorded through the step, the word consumed. -/
theorem test_decode_faults_recorded :
    (after (step (State.reset.withFetchWord 32 0x0F000000))).map (fun t => (t.blk.fault.code, t.host)) = some (1, []) ∧
    (after (step (State.reset.withFetchWord 32 0x21000041))).map (fun t => (t.blk.fault.code, t.host)) = some (2, []) := by decide

/-- V-K-8: the payload read port. -/
theorem test_dlvData :
    [0, 1, 2].map (fun a => pendingRecord.dlvData a) = [0x10, 0x20, 0x30] ∧ pendingRecord.outputs.dlvValid = true := by decide

/-- R14, R162: HOST's step queues its word; SINK's step with dlv_ready low only reads. -/
theorem test_agent_steps :
    (after (step { offering [0x10000001] (live .empty 0 []) with sched := [.host 0x200000A1, .block] })).map
      (fun t => (t.host, t.sched, t.blk)) = some ([0x10000001, 0x200000A1], [.block], (live .empty 0 []).blk) ∧
    (after (step { pendingRecord with sched := [.sink false 2] })).map (fun t => (t.blk, t.outputs.dlvData)) =
      some (pendingRecord.blk, 0x30) := by decide

/-- V-K-4 in SINK's own step (R165: "a SINK step (TAKE)"). -/
theorem test_sink_takes :
    (after (step { pendingRecord with sched := [.sink true 0] })).map view =
      some ⟨.empty, 0, [], false, .none, [.delivery ⟨0xABCDEF, 0xA1, 5, 3, 0x34, 0xA4, [0x10, 0x20, 0x30]⟩], []⟩ := by decide

/-- V-K-7 in RESET's own step (R195: asserting rst gets back the reset state). -/
theorem test_reset_resets :
    (after (step { pendingRecord with sched := [.reset true] })).map (fun t => (({ view t with mem := [] } : View), t.blk.initd)) =
      some (⟨.empty, 0, [], false, .none, [], []⟩, false) := by decide

/-! ### Witnesses: for each statement with hypotheses, a case that meets them all -/

/-- A block inside a frame that meets the invariant: GOT_START with the marker stored. -/
theorem gotStart_inv : (live .gotStart 0 [(0, 0xA1)]).Inv where
  mem_wf := by decide
  mem_within := by decide
  uninit_idle h := by cases h
  fault_not_pending h := absurd rfl h
  parser _ :=
    { empty_clear := fun h => by cases h
      sop_marker := fun _ => by decide
      gotStart_cnt := fun _ => rfl
      gotType_cnt := fun h => by cases h
      len_valid := fun h => by rcases h with h | h <;> cases h
      receiving := fun h => by cases h
      complete_iff_pending := by decide
      complete := fun h => by cases h
      payload_zero := fun i _ => Memory.read_beyond (n := 5) (by decide) (by unfold payloadOffset headerSize; omega)
      payload_zero_pending := fun h => by cases h
      not_code7 := by decide }

/-- The live empty block meets the invariant. -/
theorem empty_inv (p : Pins) (ws : List CmdWord) : ({ live .empty 0 [] with pins := p, host := ws } : State).Inv where
  mem_wf := rfl
  mem_within := rfl
  uninit_idle _ := ⟨rfl, rfl, rfl⟩
  fault_not_pending _ := rfl
  parser _ :=
    { empty_clear := fun _ => ⟨rfl, fun _ => rfl⟩
      sop_marker := fun h => absurd rfl h
      gotStart_cnt := fun _ => rfl
      gotType_cnt := fun _ => rfl
      len_valid := fun h => by rcases h with h | h <;> cases h
      receiving := fun h => by cases h
      complete_iff_pending := by simp [live, Block.reset]
      complete := fun h => by cases h
      payload_zero := fun _ _ => rfl
      payload_zero_pending := fun h => by cases h
      not_code7 := by simp [live] }

/-- MAX_PAYLOAD payload bytes with operands at 255 (first clause), MAX_PAYLOAD + 1 bytes (second), an operand of 256 (third). -/
theorem witness_AssembledFrameFeedsItsFrameBytes :
    (0xFF < 2 ^ 8 ∧ (∀ n ∈ [0xFF], n < 2 ^ 8) ∧ [0xFF].length ≤ (1#8).toNat) ∧ (1#8).toNat < [0xA1, 0xA1].length ∧
    (2 ^ 8 ≤ 256 ∧ ∃ n ∈ [256], 2 ^ 8 ≤ n) := by decide

/-- The operands at the two sides of each bound. -/
theorem witness_AssembledCommandKeepsItsOperands :
    assemble 250 (.init 0xFFFFFF) = some [0x10FFFFFF] ∧ assemble 250 (.init 0x1000000) = none ∧
    assemble 250 (.feedByte 255) = some [0x200000FF] ∧ assemble 250 (.feedByte 256) = none ∧
    assemble 250 (.crcFold 0xFFFF 0xFF) = some [0x30FFFFFF] ∧ assemble 250 (.crcFold 0x10000 0xFF) = none ∧
    assemble 250 (.crcFold 0xFFFF 256) = none := by decide

theorem witness_AssembledFeedsIsOneCommandPerByte : ∀ n ∈ [0, 255], n < 2 ^ 8 := by decide

theorem witness_StepRunsTheDecodedCommand :
    let s := offering [0x200000A1] (live .empty 0 [])
    s.nextMove = .block ∧ s.pins.rst = false ∧ s.blk.dlvPend = false ∧ s.blk.fault = .none ∧ s.host = [0x200000A1] ∧
    decode 0x200000A1 = .ok (.feedByte 0xA1) := by decide

theorem witness_StepRecordsDecodeFaults :
    let s := offering [0x40000000] State.reset
    s.nextMove = .block ∧ s.pins.rst = false ∧ s.blk.dlvPend = false ∧ s.blk.fault = .none ∧ s.host = [0x40000000] ∧
    decode 0x40000000 = .error .illegalOpcode ∧ decode 0x20000100 = .error .reservedField := by decide

theorem witness_HeldCommandChangesNothing :
    (let s := { pendingRecord with host := [0x200000A1] }
     s.rstInStep = false ∧ (s.blk.dlvPend = true → s.readyInStep = false) ∧ s.blk.cmdReady = false ∧ s.blk.dlvPend = true) ∧
    (let s := offering [0x10000001] (State.reset.raiseFault .reservedField)
     s.rstInStep = false ∧ (s.blk.dlvPend = true → s.readyInStep = false) ∧ s.blk.cmdReady = false ∧ s.blk.fault ≠ .none) := by decide

/-- A step that takes a word, which also witnesses the statements about every step. -/
theorem witness_CommandsAreAcceptedInOrderWhenReady :
    ∃ t, step (offering [0x200000A1, 0x20000005] (live .empty 0 [])) = .next t ∧ t.host = [0x20000005] := ⟨_, rfl, rfl⟩

/-- rst standing in BLOCK's step, and RESET's own step. -/
theorem witness_ResetEventOverridesAndResets :
    ({ pendingRecord with pins := ⟨true, 0, true⟩ } : State).rstInStep = true ∧
    ({ pendingRecord with sched := [.reset true] } : State).rstInStep = true ∧
    (let s := offering [0x10000001] (State.reset.raiseFault .reservedField)
     (after (step s)).isSome = true ∧ s.blk.fault ≠ .none ∧ s.rstInStep = false) := by decide

/-- dlv_ready standing in BLOCK's step, and SINK's own step. -/
theorem witness_TakeEmitsTheRecordAndClears :
    (let s := offering [] pendingRecord
     s.rstInStep = false ∧ s.readyInStep = true ∧ s.blk.dlvPend = true ∧ s.blk.len ≤ s.maxPayload) ∧
    (let s := { pendingRecord with sched := [.sink true 0] }
     s.rstInStep = false ∧ s.readyInStep = true ∧ s.blk.dlvPend = true ∧ s.blk.len ≤ s.maxPayload) := by decide

/-- The last payload index of the record. -/
theorem witness_OutputsShowTheDeliveryAndStatus :
    let s := { pendingRecord with pins := ⟨false, 2, false⟩ }
    s.blk.dlvPend = true ∧ s.pins.dlvAddr < s.blk.len ∧ s.blk.len ≤ s.maxPayload := by decide

theorem witness_InitIsIdempotent : ∃ t, exec (.init 9) lastByteNext = .next t := ⟨_, rfl⟩

theorem witness_CrcFoldDoesNotDisturbParsing :
    (after (exec (.crcFold 1 2) lastByteNext)).isSome = true ∧ (after (exec (.feedByte 0x30) lastByteNext)).isSome = true := by decide

theorem witness_OneByteChangeAltersTheChecksum : (5 : Byte) ≠ 4 ∧ (0x10 : Byte) ≠ 0x11 := by decide

theorem witness_FeedByteBeforeInitFaults : State.reset.blk.initd = false := rfl

theorem witness_EmptyRows :
    let s := live .empty 0 []
    s.blk.mem.wf = true ∧ s.blk.initd = true ∧ s.blk.pstate = .empty ∧ (0xA2 : Byte) ≠ startMarker := by decide

theorem witness_GotStartStoresTheType :
    let s := live .gotStart 0 [(0, 0xA1)]
    s.blk.mem.wf = true ∧ s.blk.initd = true ∧ s.blk.pstate = .gotStart := by decide

/-- MAX_PAYLOAD and MAX_PAYLOAD + 1. -/
theorem witness_GotTypeRows :
    let s := live .gotType 0 [(0, 0xA1), (1, 7)]
    s.blk.mem.wf = true ∧ s.blk.initd = true ∧ s.blk.pstate = .gotType ∧ (250#8).toNat ≤ s.maxPayload.toNat ∧
    s.maxPayload.toNat < (251#8).toNat := by decide

theorem witness_GotLengthStoresTheChecksumLowByte :
    let s := live .gotLength 0 [(0, 0xA1), (1, 1)]
    s.blk.mem.wf = true ∧ s.blk.initd = true ∧ s.blk.pstate = .gotLength := by decide

/-- LEN = 1 (the payload follows), and LEN = 0 with the matching byte E9 and with E8 (V-R-11, V-R-12). -/
theorem witness_GotChecksumLoStoresHighOrCompletes :
    (let s := live .gotChecksumLo 0 [(0, 0xA1), (1, 1), (2, 1), (3, 0x60)]
     s.blk.mem.wf = true ∧ s.blk.initd = true ∧ s.blk.pstate = .gotChecksumLo ∧ s.blk.len ≠ 0) ∧
    (let s := live .gotChecksumLo 0 [(0, 0xA1), (1, 1), (3, 0x60)]
     s.blk.mem.wf = true ∧ s.blk.initd = true ∧ s.blk.pstate = .gotChecksumLo ∧ s.blk.len = 0 ∧
     crc16 seed [s.blk.typ, 0] = 0xE9#8 ++ s.blk.cklo ∧ crc16 seed [s.blk.typ, 0] ≠ 0xE8#8 ++ s.blk.cklo) := by decide

/-- CNT + 1 < LEN; CNT + 1 = LEN with the matching byte 30 and with 31 (V-R-14, V-R-16). -/
theorem witness_ReceivingStoresPayloadAndCompletes :
    (let s := live .receivingPayload 1 [(0, 0xA1), (1, 5), (2, 3), (3, 0x34), (4, 0xA4), (5, 0x10)]
     s.blk.mem.wf = true ∧ s.blk.initd = true ∧ s.blk.pstate = .receivingPayload ∧ s.blk.cnt < s.blk.len ∧
     s.blk.len ≤ s.maxPayload ∧ s.blk.cnt.toNat + 1 < s.blk.len.toNat) ∧
    (let s := lastByteNext
     s.blk.mem.wf = true ∧ s.blk.initd = true ∧ s.blk.pstate = .receivingPayload ∧ s.blk.cnt < s.blk.len ∧
     s.blk.len ≤ s.maxPayload ∧ s.blk.cnt.toNat + 1 = s.blk.len.toNat ∧
     crc16 seed ([s.blk.typ, s.blk.len] ++ s.blk.payload s.blk.cnt.toNat ++ [0x30]) = s.blk.ck ∧
     crc16 seed ([s.blk.typ, s.blk.len] ++ s.blk.payload s.blk.cnt.toNat ++ [0x31]) ≠ s.blk.ck) := by decide

theorem witness_GotCompleteAppliesTheEmptyRows :
    pendingRecord.blk.mem.wf = true ∧ pendingRecord.blk.initd = true ∧ pendingRecord.blk.pstate = .gotComplete := by decide

theorem witness_FeedByteStopsOnlyOutsideTheInvariant :
    ((live .code7 0 []).blk.initd = true ∧ (live .code7 0 []).blk.pstate = .code7) ∧ (live .gotStart 0 [(0, 0xA1)]).Inv :=
  ⟨by decide, gotStart_inv⟩

/-- CNT = MAX_PAYLOAD, and LEN = MAX_PAYLOAD + 1. -/
theorem witness_AccessBeyondTheStorageIsAModelFault :
    (let s := live .receivingPayload 250 []
     s.blk.initd = true ∧ s.blk.pstate = .receivingPayload ∧ s.maxPayload.toNat ≤ s.blk.cnt.toNat) ∧
    (let s := live .gotComplete 0 [(2, 251)]
     s.maxPayload.toNat < s.blk.len.toNat) := by decide

theorem witness_NoStreamByteRaisesAFault : (live .gotStart 0 [(0, 0xA1)]).Inv ∧ (live .gotStart 0 [(0, 0xA1)]).Live :=
  ⟨gotStart_inv, rfl, rfl⟩

theorem witness_EveryStepKeepsTheInvariant :
    (live .gotStart 0 [(0, 0xA1)]).Inv ∧ ∃ t, step (live .gotStart 0 [(0, 0xA1)]) = .next t := ⟨gotStart_inv, _, rfl⟩

theorem witness_EveryStepKeepsTheStorageCanonical :
    lastByteNext.blk.mem.wf = true ∧ (after (step (lastByteNext.withFetchWord 32 0x20000030))).isSome = true := by decide

theorem witness_OnlyResetClearsAFault :
    let s := offering [0x10000001] (State.reset.raiseFault .reservedField)
    (after (step s)).isSome = true ∧ s.blk.fault ≠ .none := by decide

/-- A step that makes DLV_PEND rise, a TAKE and a RESET that make it fall. -/
theorem witness_DeliveryPendsFromFeedByteUntilTakeOrReset :
    (lastByteNext.blk.dlvPend = false ∧
      (after (step (offering [0x20000030] lastByteNext))).map (fun t => t.blk.dlvPend) = some true) ∧
    (pendingRecord.blk.dlvPend = true ∧ pendingRecord.pins.rst = false ∧
      (after (step (offering [] pendingRecord))).map (fun t => t.blk.dlvPend) = some false) ∧
    (after (step { pendingRecord with pins := ⟨false, 0, true⟩ })).map (fun t => t.blk.dlvPend) = some false := by decide

/-- An INIT that changes CTX, and a RESET. -/
theorem witness_OnlyInitWritesTheContext :
    ((after (step (offering [0x10000009] lastByteNext))).map (fun t => t.blk.ctx) = some 9 ∧ (9 : Ctx) ≠ lastByteNext.blk.ctx) ∧
    (let s := { lastByteNext with sched := [.reset true] }
     s.rstInStep = true ∧ (after (step s)).isSome = true) := by decide

theorem witness_AStepEmitsAtMostOneEvent : (after (step (offering [] pendingRecord))).isSome = true := by decide

theorem witness_PendingDeliveryHoldsUntilTaken :
    pendingRecord.blk.dlvPend = true ∧ pendingRecord.neverReset ∧ pendingRecord.neverReady :=
  ⟨rfl, ⟨rfl, List.not_mem_nil⟩, rfl, fun _ => List.not_mem_nil⟩

theorem witness_FaultHoldsUntilReset :
    let s := offering [0x10000001] (State.reset.raiseFault .reservedField)
    s.blk.fault ≠ .none ∧ s.blk.dlvPend = false ∧ s.neverReset :=
  ⟨by decide, rfl, rfl, List.not_mem_nil⟩

theorem witness_InstancesShareNoState :
    ∃ sys', stepInstance 1 [State.reset, State.reset.withFetchWord 32 0x10000001] = .next sys' ∧ 0 ≠ 1 := ⟨_, rfl, by decide⟩

theorem witness_NoiseFromEmptyIsIgnored :
    (live .empty 0 []).blk.initd = true ∧ (live .empty 0 []).blk.pstate = .empty ∧ (live .empty 0 []).blk.dlvPend = false ∧
    startMarker ∉ [(0xA0 : Byte), 0xA2] := by decide

/-- A byte that presents nothing, and one that presents a delivery. -/
theorem witness_AtomicFeedIsFeedThenTake :
    (let s := offering [encode (.feedByte 0x30)] lastByteNext
     s.sched = [] ∧ s.pins.rst = false ∧ s.pins.dlvReady = true ∧ s.blk.dlvPend = false ∧ s.blk.fault = .none ∧
     s.host = encode (.feedByte 0x30) :: [] ∧ (after (feed 0x30 s)).isSome = true) ∧
    (after (feed 0xA1 (offering [encode (.feedByte 0xA1)] (live .empty 0 [])))).isSome = true := by decide

theorem witness_RoundTripDeliversTheFrameOnce :
    (live .empty 0 []).Inv ∧ (live .empty 0 []).Live ∧ (live .empty 0 []).blk.pstate = .empty ∧
    frameBytes (live .empty 0 []).maxPayload 7 [0x55] = some [0xA1, 0x07, 0x01, 0xC6, 0xA9, 0x55] :=
  ⟨empty_inv _ _, ⟨rfl, rfl⟩, rfl, by decide⟩

theorem witness_RoundTripThroughThePorts :
    let s := offering (feedWords [0xA1, 0x07, 0x01, 0xC6, 0xA9, 0x55]) (live .empty 0 [])
    s.Inv ∧ s.Live ∧ s.blk.pstate = .empty ∧ s.sched = [] ∧ s.pins.rst = false ∧ s.pins.dlvReady = true ∧
    frameBytes s.maxPayload 7 [0x55] = some [0xA1, 0x07, 0x01, 0xC6, 0xA9, 0x55] ∧
    s.host = feedWords [0xA1, 0x07, 0x01, 0xC6, 0xA9, 0x55] :=
  ⟨empty_inv _ _, ⟨rfl, rfl⟩, rfl, rfl, rfl, rfl, by decide, rfl⟩

theorem witness_AFrameEndsWithinItsBound :
    let s := live .gotStart 0 [(0, 0xA1)]
    s.Inv ∧ s.Live ∧ s.blk.dlvPend = false ∧ s.blk.pstate ≠ .empty ∧ (List.replicate 254 (0 : Byte)).length = 4 + s.maxPayload.toNat :=
  ⟨gotStart_inv, ⟨rfl, rfl⟩, rfl, by decide, List.length_replicate⟩

/-- One agent's turn for each clause; SINK's with and without a pending delivery. -/
theorem witness_EachAgentMakesItsOwnStep :
    (let s := { State.reset with sched := [.host 0] }
     s.nextMove = .host 0 ∧ s.pins.rst = false) ∧
    (let s := { pendingRecord with sched := [.sink true 255] }
     s.nextMove = .sink true 255 ∧ s.pins.rst = false ∧ s.blk.dlvPend = true ∧ s.blk.len ≤ s.maxPayload) ∧
    (let s := { pendingRecord with sched := [.sink false 0] }
     s.nextMove = .sink false 0 ∧ s.pins.rst = false ∧ s.blk.len ≤ s.maxPayload) ∧
    ({ State.reset with sched := [.reset true] } : State).nextMove = .reset true ∧
    ({ State.reset with sched := [.reset false] } : State).nextMove = .reset false ∧
    State.reset.nextMove = .block ∧ (after (step State.reset)).isSome = true := by decide

theorem witness_BlockWaitsBetweenCommands :
    State.reset.nextMove = .block ∧ State.reset.pins.rst = false ∧ State.reset.takeEnabled = false ∧ State.reset.host = [] := by decide

end Sys2Proof.Tests
end

section
/-! SUPPORT. What a transaction leaves of the agents' side: the parameter, the ports and the schedule (R6, R14), and each agent's step as an
equation. With them the statements of 00_scope.md are settled. -/

namespace Sys2Proof.Machine

/-- What an accepted command or a TAKE does not touch: the parameter, the words on offer, the pins, the schedule and the draw counter. It is
`sameOutside` less the two fields in which observers see an event. -/
structure sameSurroundings (s t : State) : Prop where
  maxPayload : t.maxPayload = s.maxPayload
  host : t.host = s.host
  pins : t.pins = s.pins
  sched : t.sched = s.sched
  draws : t.draws = s.draws

theorem sameOutside.surroundings {s t : State} (h : sameOutside s t) : sameSurroundings s t :=
  ⟨h.maxPayload, h.host, h.pins, h.sched, h.draws⟩

theorem sameSurroundings.refl (s : State) : sameSurroundings s s := (sameOutside.refl s).surroundings

/-- Every command acts on the block and the response port alone. -/
theorem exec_sameSurroundings {i : Instr} {s t : State} (h : exec i s = .next t) : sameSurroundings s t := by
  cases i with
  | init ctx => cases h; exact ⟨rfl, rfl, rfl, rfl, rfl⟩
  | feedByte data => exact (execFeedByte_sameOutside h).surroundings
  | crcFold acc data => cases h; exact ⟨rfl, rfl, rfl, rfl, rfl⟩

theorem take_sameSurroundings {s t : State} (h : take s = .next t) : sameSurroundings s t := by
  rcases take_cases s with ⟨-, he⟩ | ⟨-, he⟩ <;> rw [he] at h <;> cases h
  exact ⟨rfl, rfl, rfl, rfl, rfl⟩

/-- After the agent whose turn it is has driven its side, a step changes nothing more of the surroundings, except that BLOCK may accept the
oldest word on offer, which then leaves the command port. -/
theorem step_sameSurroundings {s t : State} (h : step s = .next t) :
    sameSurroundings s.driven t ∨
    (s.nextMove = .block ∧ (∃ w ws, s.host = w :: ws) ∧ sameSurroundings s.driven.consumeWord t) := by
  rcases step_cases h with ⟨-, rfl⟩ | ⟨-, ⟨-, -, htake, -⟩ | ⟨hm, -, w, ws, hh, hacc⟩ | ⟨-, rfl⟩⟩
  · exact .inl ⟨rfl, rfl, rfl, rfl, rfl⟩
  · exact .inl (take_sameSurroundings htake)
  · refine .inr ⟨hm, ⟨w, ws, hh⟩, ?_⟩
    rcases hacc with ⟨i, -, hexec⟩ | ⟨e, -, rfl⟩
    · exact exec_sameSurroundings hexec
    · exact ⟨rfl, rfl, rfl, rfl, rfl⟩
  · exact .inl (.refl _)

/-- Settles O44: the drive does not write the parameter, and neither does the transaction that follows it. -/
theorem noStepChangesTheParameter : Obligations.NoStepChangesTheParameter := by
  intro s t h
  rcases step_sameSurroundings h with hk | ⟨-, -, hk⟩ <;> exact hk.maxPayload.trans s.driven_maxPayload

/-! ### TAKE on a record that fits -/

/-- The record lies inside the storage exactly when its length is valid (R25, R50). -/
theorem payloadInStorage_iff (s : State) : s.payloadInStorage = true ↔ s.blk.len ≤ s.maxPayload := by
  simp [State.payloadInStorage, State.storageSize, payloadOffset, BitVec.le_def]

theorem cleared_clear (s : State) : cleared s.clear := ⟨rfl, rfl, fun _ => rfl⟩

theorem take_eq {s : State} (h : s.blk.len ≤ s.maxPayload) :
    take s = .next (((s.emit (.delivery s.blk.delivery)).setDlvPend false).clear) := by
  simp [take, (payloadInStorage_iff s).2 h]

/-! ### Each agent's step as an equation -/

/-- The step of an agent with no transaction of its own resets while rst = 1 and otherwise only drives. -/
theorem unlessReset_next (s : State) : s.unlessReset .next = .next (if s.pins.rst then s.resetBlock else s) := by
  unfold State.unlessReset; split <;> rfl

section
variable {s : State}

theorem driven_of_block (h : s.nextMove = .block) : s.driven = s.beginStep := by simp [State.driven, h]

theorem step_of_nextMove {m : Move} (h : s.nextMove = m) : step s = agentStep m s.beginStep := by rw [step, h]

theorem step_of_host {w : CmdWord} (h : s.nextMove = .host w) :
    step s = .next (if s.pins.rst then (s.beginStep.offer w).resetBlock else s.beginStep.offer w) :=
  (step_of_nextMove h).trans (unlessReset_next _)

theorem step_of_reset {l : Bool} (h : s.nextMove = .reset l) :
    step s = .next (if l then (s.beginStep.driveReset l).resetBlock else s.beginStep.driveReset l) :=
  (step_of_nextMove h).trans (unlessReset_next _)

variable {r : Bool} {a : Byte}

theorem step_of_sink_high (h : s.nextMove = .sink r a) (hr : s.pins.rst = true) :
    step s = .next (s.beginStep.driveSink r a).resetBlock :=
  (step_of_nextMove h).trans (unlessReset_high (s := s.beginStep.driveSink r a) hr _)

theorem step_of_sink_low (h : s.nextMove = .sink r a) (hr : s.pins.rst = false) :
    step s = (s.beginStep.driveSink r a).takeIfEnabled :=
  (step_of_nextMove h).trans (unlessReset_low (s := s.beginStep.driveSink r a) hr _)

/-- With rst low, SINK's step reads where it does not assert dlv_ready or no delivery is pending (R162). -/
theorem step_of_sink_reads (h : s.nextMove = .sink r a) (hr : s.pins.rst = false) (hn : r = false ∨ s.blk.dlvPend = false) :
    step s = .next (s.beginStep.driveSink r a) := by
  rw [step_of_sink_low h hr]
  rcases hn with hn | hn <;> simp [State.takeIfEnabled, State.takeEnabled, hn]

/-- With rst low, SINK's step takes a pending delivery where it asserts dlv_ready (R161, R165). -/
theorem step_of_sink_takes (h : s.nextMove = .sink true a) (hr : s.pins.rst = false) (hp : s.blk.dlvPend = true) :
    step s = take (s.beginStep.driveSink true a) := by
  rw [step_of_sink_low h hr]
  simp [State.takeIfEnabled, State.takeEnabled, hp]

end

/-- Settles O58: the steps of HOST, SINK and RESET by their equations, SINK's in its three cases (reset, take, read); BLOCK's by what its
transaction leaves of the surroundings. -/
theorem eachAgentMakesItsOwnStep : Obligations.EachAgentMakesItsOwnStep := by
  intro s
  refine ⟨fun w h => ?host, fun r a h hlen => ?sink, fun l h => ?reset, fun t h ht => ?block⟩
  case host =>
    refine ⟨_, step_of_host h, ?_⟩
    cases hr : s.pins.rst <;> simp
  case sink =>
    cases hr : s.pins.rst with
    | true => exact ⟨_, step_of_sink_high h hr, by simp [hr]⟩
    | false =>
      by_cases hn : r = false ∨ s.blk.dlvPend = false
      · refine ⟨_, step_of_sink_reads h hr hn, ?_⟩
        rcases hn with hn | hn <;> simp [hr, hn]
      · obtain ⟨rfl, hp⟩ : r = true ∧ s.blk.dlvPend = true := by simpa using hn
        refine ⟨_, (step_of_sink_takes h hr hp).trans (take_eq (hlen hp)), ?_⟩
        simp [hr, hp, cleared_clear]
  case reset =>
    refine ⟨_, step_of_reset h, ?_⟩
    cases l <;> simp
  case block =>
    have hd := driven_of_block h
    rcases step_sameSurroundings ht with hk | ⟨-, ⟨w, ws, hh⟩, hk⟩ <;> rw [hd] at hk
    · exact ⟨hk.pins, hk.sched, .inl hk.host⟩
    · have hws : t.host = ws := by simpa [hh] using hk.host
      exact ⟨hk.pins, hk.sched, .inr ⟨w, hws ▸ hh⟩⟩

end Sys2Proof.Machine
end

section
/-! SUPPORT. The state and its invariant (10_state.md): reading the storage after a write, the block inside a frame, what keeps the invariant
and why the machine does not stop in it. With them the statements of 10_state.md are settled. -/

namespace Sys2Proof.Machine

/-! ### The fields of the storage after one byte is written (R50) -/

section
variable {s : State} (hwf : s.blk.mem.wf = true) (a : Nat) (v : Byte)
include hwf

theorem sop_memWrite : (s.memWrite a v).blk.sop = if sopOffset = a then v else s.blk.sop :=
  memWrite_storesByte hwf a v sopOffset

theorem len_memWrite : (s.memWrite a v).blk.len = if lenOffset = a then v else s.blk.len :=
  memWrite_storesByte hwf a v lenOffset

theorem len_memWrite_of_ne {a : Nat} (ha : lenOffset ≠ a) : (s.memWrite a v).blk.len = s.blk.len := by
  rw [len_memWrite hwf, if_neg ha]

theorem payloadByte_memWrite (i : Nat) :
    (s.memWrite a v).blk.payloadByte i = if payloadOffset i = a then v else s.blk.payloadByte i :=
  memWrite_storesByte hwf a v (payloadOffset i)

end

/-- No payload byte shares its offset with a header byte. -/
theorem payloadOffset_ne {a : Nat} (ha : a < headerSize) (i : Nat) : payloadOffset i ≠ a := by
  unfold payloadOffset; omega

/-! ### A cleared, a reset and a faulted block meet the invariant -/

/-- A cleared block with no delivery pending meets the invariant, initialized or not, whatever its CTX and FAULT. -/
theorem Block.inv_of_cleared {M : Byte} {b : Block} (hp : b.pstate = .empty) (hc : b.cnt = 0) (hm : b.mem = Memory.zeroed)
    (hd : b.dlvPend = false) : b.Inv M where
  mem_wf := by simp [hm]
  mem_within := by simp [hm]
  uninit_idle _ := ⟨hp, hc, hd⟩
  fault_not_pending _ := hd
  parser _ := by constructor <;> simp [hp, hc, hm, hd, Block.payloadByte]

theorem clear_inv {s : State} (hd : s.blk.dlvPend = false) : s.clear.Inv := Block.inv_of_cleared rfl rfl rfl hd

/-- After a RESET event the storage holds free values, which the invariant leaves open while INITD = 0. -/
theorem resetBlock_inv (s : State) : s.resetBlock.Inv where
  mem_wf := Memory.wf_ofBytes _ _
  mem_within := Memory.within_ofBytes _ le_rfl
  uninit_idle _ := ⟨rfl, rfl, rfl⟩
  fault_not_pending _ := rfl
  parser h := by cases h

/-- The invariant is about the block and the parameter only. -/
theorem State.Inv.congr {s t : State} (h : s.Inv) (hb : t.blk = s.blk) (hM : t.maxPayload = s.maxPayload) : t.Inv := by
  unfold State.Inv; rw [hb, hM]; exact h

section
variable {s : State} (h : s.Inv)
include h

theorem State.Inv.driven : s.driven.Inv := h.congr s.driven_blk s.driven_maxPayload

/-- A fault is entered with no delivery pending; the parser's invariant does not speak of FAULT (R183). -/
theorem State.Inv.raiseFault (hd : s.blk.dlvPend = false) (f : FaultCode) : (s.raiseFault f).Inv :=
  { h with
    fault_not_pending := fun _ => hd
    parser := fun hi => { h.parser hi with } }

/-- A pending delivery is a completed frame of an initialized block, so its length is valid (R35, R124). -/
theorem State.Inv.len_le_of_pending (hd : s.blk.dlvPend = true) : s.blk.len ≤ s.maxPayload := by
  have hi : s.blk.initd = true := by
    by_contra hn
    obtain ⟨-, -, hnp⟩ := h.uninit_idle (by simpa using hn)
    simp [hnp] at hd
  obtain ⟨-, hlen, -⟩ := (h.parser hi).complete ((h.parser hi).complete_iff_pending.2 hd)
  exact hlen

end

/-! ### The block inside a frame -/

/-- The receiver stands inside a frame and can accept commands: the part of the invariant that does not depend on which field of the frame
comes next. -/
structure State.MidFrame (s : State) : Prop where
  mem_wf : s.blk.mem.wf = true
  mem_within : s.blk.mem.within s.storageSize = true
  initd : s.blk.initd = true
  not_pending : s.blk.dlvPend = false
  no_fault : s.blk.fault = .none
  sop_marker : s.blk.sop = startMarker
  payload_zero : ∀ i, s.blk.cnt.toNat ≤ i → s.blk.payloadByte i = 0

/-- What the invariant asks of MAX_PAYLOAD, LEN and CNT in a parse state inside a frame; the other parse states do not stand inside one. -/
def PState.LengthsFit (maxPayload len cnt : Byte) : PState → Prop
  | .gotStart => cnt = 0
  | .gotType => cnt = 0
  | .gotLength => len ≤ maxPayload ∧ cnt = 0
  | .gotChecksumLo => len ≤ maxPayload ∧ cnt = 0
  | .receivingPayload => 1 ≤ len ∧ len ≤ maxPayload ∧ cnt < len
  | .empty => False
  | .gotComplete => False
  | .code7 => False

section
variable {s : State}

/-- The invariant of a block that accepts commands puts it inside a frame, in every parse state but EMPTY. -/
theorem State.Inv.midFrame (h : s.Inv) (hrdy : s.blk.cmdReady = true) (hi : s.blk.initd = true) (hne : s.blk.pstate ≠ .empty) :
    s.MidFrame := by
  obtain ⟨hd, hf⟩ := (cmdReady_iff _).1 hrdy
  exact ⟨h.mem_wf, h.mem_within, hi, hd, hf, (h.parser hi).sop_marker hne, (h.parser hi).payload_zero⟩

/-- With the lengths of its parse state a block inside a frame meets the invariant. -/
theorem State.MidFrame.inv {p : PState} {len : Byte} (h : s.MidFrame) (hp : s.blk.pstate = p) (hlen : s.blk.len = len)
    (hfit : p.LengthsFit s.maxPayload len s.blk.cnt) : s.Inv where
  mem_wf := h.mem_wf
  mem_within := h.mem_within
  uninit_idle hi := by simp [h.initd] at hi
  fault_not_pending _ := h.not_pending
  parser _ :=
    have hrow {q : PState} (hq : s.blk.pstate = q) : q.LengthsFit s.maxPayload s.blk.len s.blk.cnt := by
      rw [← hq, hp, hlen]; exact hfit
    { empty_clear := fun hq => (hrow hq).elim
      sop_marker := fun _ => h.sop_marker
      gotStart_cnt := hrow
      gotType_cnt := hrow
      len_valid := fun hq => hq.elim hrow hrow
      receiving := hrow
      complete_iff_pending := ⟨fun hq => (hrow hq).elim, fun hd => by simp [h.not_pending] at hd⟩
      complete := fun hq => (hrow hq).elim
      payload_zero := h.payload_zero
      payload_zero_pending := fun hd => by simp [h.not_pending] at hd
      not_code7 := hrow }

/-- A payload index below a valid length names a storage byte (R50). -/
theorem hasOffset_payload (hlt : s.blk.cnt < s.blk.len) (hlen : s.blk.len ≤ s.maxPayload) :
    s.hasOffset (payloadOffset s.blk.cnt.toNat) = true := by
  have : s.blk.cnt.toNat < s.maxPayload.toNat := by bv_omega
  simpa [State.hasOffset, State.storageSize, payloadOffset] using this

variable (h : s.MidFrame)
include h

theorem State.MidFrame.setPState (p : PState) : (s.setPState p).MidFrame := { h with }

/-- CNT is 0 throughout the header already. -/
theorem State.MidFrame.setCnt_zero (hc : s.blk.cnt = 0) : (s.setCnt 0).MidFrame := by
  simpa [State.setCnt, ← hc] using h

/-- A header byte after the marker touches neither the marker nor the payload. -/
theorem State.MidFrame.memWrite_header {a : Nat} (ha : sopOffset < a) (ha' : a < headerSize) (v : Byte) :
    (s.memWrite a v).MidFrame :=
  { h with
    mem_wf := Memory.wf_write a v h.mem_wf
    mem_within := Memory.within_write v h.mem_within (by unfold State.storageSize; omega)
    sop_marker := by rw [sop_memWrite h.mem_wf, if_neg ha.ne, h.sop_marker]
    payload_zero := fun i hi => by
      rw [payloadByte_memWrite h.mem_wf, if_neg (payloadOffset_ne ha' i), h.payload_zero i hi] }

/-- The next payload byte goes to the index CNT, below LEN, so CNT does not wrap and the bytes from the new CNT on are still 0. -/
theorem State.MidFrame.storePayload (hlt : s.blk.cnt < s.blk.len) (hlen : s.blk.len ≤ s.maxPayload) (v : Byte) :
    ((s.memWrite (payloadOffset s.blk.cnt.toNat) v).setCnt (s.blk.cnt + 1)).MidFrame :=
  { h with
    mem_wf := Memory.wf_write _ v h.mem_wf
    mem_within := Memory.within_write v h.mem_within (of_decide_eq_true (hasOffset_payload hlt hlen))
    sop_marker := by
      have hs := sop_memWrite h.mem_wf (payloadOffset s.blk.cnt.toNat) v
      rw [if_neg (payloadOffset_ne (by decide) _).symm, h.sop_marker] at hs
      exact hs
    payload_zero := fun i hi => by
      have hci : s.blk.cnt.toNat + 1 ≤ i := by
        have : (s.blk.cnt + 1).toNat ≤ i := hi
        bv_omega
      have hz := payloadByte_memWrite h.mem_wf (payloadOffset s.blk.cnt.toNat) v i
      rw [if_neg (by unfold payloadOffset; omega), h.payload_zero i (by omega)] at hz
      exact hz }

/-- `Complete()` on a frame whose bytes have all been stored: presented with its checksum matching, or cleared (R130 to R133). -/
theorem State.MidFrame.complete_inv {len : Byte} (hlen : s.blk.len = len) (hle : len ≤ s.maxPayload) (hcnt : s.blk.cnt = len) :
    s.complete.Inv := by
  subst hlen
  rcases complete_cases s with ⟨hck, he⟩ | ⟨-, he⟩ <;> rw [he]
  · exact
      { mem_wf := h.mem_wf
        mem_within := h.mem_within
        uninit_idle := fun hi => absurd h.initd (ne_true_of_eq_false hi)
        fault_not_pending := fun hf => absurd h.no_fault hf
        parser := fun _ =>
          { empty_clear := nofun
            sop_marker := fun _ => h.sop_marker
            gotStart_cnt := nofun
            gotType_cnt := nofun
            len_valid := by rintro (hp | hp) <;> cases hp
            receiving := nofun
            complete_iff_pending := ⟨fun _ => rfl, fun _ => rfl⟩
            complete := fun _ => ⟨hck, hle, hcnt⟩
            payload_zero := h.payload_zero
            payload_zero_pending := fun _ => hcnt ▸ h.payload_zero
            not_code7 := nofun } }
  · exact clear_inv h.not_pending

end

/-! ### The transactions keep the invariant -/

section
variable {s t : State} {b : Byte}

/-- The marker opens a frame in a cleared receiver. -/
theorem start_midFrame (h : s.Inv) (hrdy : s.blk.cmdReady = true) (hi : s.blk.initd = true) (hp : s.blk.pstate = .empty) :
    (s.memWrite sopOffset startMarker).MidFrame := by
  obtain ⟨hd, hf⟩ := (cmdReady_iff _).1 hrdy
  refine ⟨Memory.wf_write _ _ h.mem_wf, Memory.within_write _ h.mem_within ?_, hi, hd, hf, ?_, fun i _ => ?_⟩
  · unfold sopOffset State.storageSize headerSize; omega
  · rw [sop_memWrite h.mem_wf, if_pos rfl]
  · obtain ⟨-, hz⟩ := (h.parser hi).empty_clear hp
    rw [payloadByte_memWrite h.mem_wf, if_neg (payloadOffset_ne (by decide) i)]
    exact hz _

/-- FEED_BYTE, row by row of the transition table (R120 to R133). -/
theorem execFeedByte_inv (h : s.Inv) (hrdy : s.blk.cmdReady = true) (ht : execFeedByte b s = .next t) : t.Inv := by
  obtain ⟨hd, -⟩ := (cmdReady_iff _).1 hrdy
  obtain ⟨-, rfl⟩ | ⟨hi, hrow⟩ := execFeedByte_cases ht
  · exact h.raiseFault hd _
  have hP := h.parser hi
  have hmid : s.blk.pstate ≠ .empty → s.MidFrame := h.midFrame hrdy hi
  rcases hrow with hE | ⟨hp, rfl⟩ | hT | ⟨hp, rfl⟩ | ⟨hp, hnext⟩ | ⟨hp, -, hnext⟩
  · obtain ⟨hp, ⟨rfl, rfl⟩ | ⟨-, rfl⟩⟩ := hE
    · have hp : s.blk.pstate = .empty := hp.resolve_right fun hc => by simp [hP.complete_iff_pending.1 hc] at hd
      obtain ⟨hcnt, -⟩ := hP.empty_clear hp
      exact ((start_midFrame h hrdy hi hp).setPState .gotStart).inv rfl rfl hcnt
    · exact h
  · have hm := (hmid (by simp [hp])).memWrite_header (a := typeOffset) (by decide) (by decide) b
    exact (hm.setPState .gotType).inv rfl rfl (hP.gotStart_cnt hp)
  · obtain ⟨hp, ⟨hle, rfl⟩ | ⟨-, rfl⟩⟩ := hT
    · have hm := (hmid (by simp [hp])).memWrite_header (a := lenOffset) (by decide) (by decide) b
      have hlen : (s.memWrite lenOffset b).blk.len = b := by rw [len_memWrite h.mem_wf, if_pos rfl]
      exact ((hm.setCnt_zero (hP.gotType_cnt hp)).setPState .gotLength).inv rfl hlen ⟨hle, rfl⟩
    · exact clear_inv hd
  · have hm := (hmid (by simp [hp])).memWrite_header (a := ckloOffset) (by decide) (by decide) b
    obtain ⟨hle, hcnt⟩ := hP.len_valid (.inl hp)
    have hlen : (s.memWrite ckloOffset b).blk.len = s.blk.len := len_memWrite_of_ne h.mem_wf b (by decide)
    exact (hm.setPState .gotChecksumLo).inv rfl hlen ⟨hle, hcnt⟩
  · have hm := (hmid (by simp [hp])).memWrite_header (a := ckhiOffset) (by decide) (by decide) b
    obtain ⟨hle, hcnt⟩ := hP.len_valid (.inr hp)
    have hlen : (s.memWrite ckhiOffset b).blk.len = s.blk.len := len_memWrite_of_ne h.mem_wf b (by decide)
    rw [hlen] at hnext
    rcases hnext with ⟨h0, rfl⟩ | ⟨h0, rfl⟩
    · exact hm.complete_inv hlen hle (hcnt.trans h0.symm)
    · exact (hm.setPState .receivingPayload).inv rfl hlen ⟨by bv_omega, hle, show s.blk.cnt < _ by bv_omega⟩
  · obtain ⟨-, hle, hlt⟩ := hP.receiving hp
    have hm := (hmid (by simp [hp])).storePayload hlt hle b
    have hlen : (s.memWrite (payloadOffset s.blk.cnt.toNat) b).blk.len = s.blk.len :=
      len_memWrite_of_ne h.mem_wf b (payloadOffset_ne (by decide) _).symm
    rcases hnext with ⟨hlast, rfl⟩ | ⟨hmore, rfl⟩
    · exact hm.complete_inv hlen hle (hlast.trans hlen)
    · have hne : s.blk.cnt + 1 ≠ s.blk.len := fun he => hmore (he.trans hlen.symm)
      exact hm.inv hp hlen ⟨by bv_omega, hle, show s.blk.cnt + 1 < _ by bv_omega⟩

/-- An accepted command keeps the invariant. -/
theorem exec_inv {i : Instr} (h : s.Inv) (hrdy : s.blk.cmdReady = true) (ht : exec i s = .next t) : t.Inv := by
  obtain ⟨hd, -⟩ := (cmdReady_iff _).1 hrdy
  cases i with
  | init ctx => cases ht; exact Block.inv_of_cleared rfl rfl rfl hd
  | feedByte data => exact execFeedByte_inv h hrdy ht
  | crcFold acc data => cases ht; exact h

/-- TAKE leaves a cleared block, from whatever state it was made. -/
theorem take_inv (ht : take s = .next t) : t.Inv := by
  rcases take_cases s with ⟨-, he⟩ | ⟨-, he⟩ <;> rw [he] at ht <;> cases ht
  exact Block.inv_of_cleared rfl rfl rfl rfl

end

/-- Settles O40: the reset block is a cleared one. -/
theorem invariantHoldsAtReset : Obligations.InvariantHoldsAtReset := Block.inv_of_cleared rfl rfl rfl rfl

/-- Settles O41: the agents' drive does not reach the block, and each transaction that may follow it keeps the invariant. -/
theorem everyStepKeepsTheInvariant : Obligations.EveryStepKeepsTheInvariant := by
  intro s t h ht
  rcases step_cases ht with ⟨-, rfl⟩ | ⟨-, ⟨-, -, htake, -⟩ | ⟨-, hrdy, w, ws, -, hacc⟩ | ⟨-, rfl⟩⟩
  · exact resetBlock_inv _
  · exact take_inv htake
  · have hc : s.driven.consumeWord.Inv := h.congr s.driven_blk s.driven_maxPayload
    have hrdy : s.driven.consumeWord.blk.cmdReady = true := by simpa using hrdy
    rcases hacc with ⟨i, -, hexec⟩ | ⟨e, -, rfl⟩
    · exact exec_inv hc hrdy hexec
    · exact hc.raiseFault ((cmdReady_iff _).1 hrdy).1 _
  · exact h.driven

/-! ### In the invariant nothing stops -/

section
variable {s : State} (h : s.Inv)
include h

/-- The invariant excludes both ways in which FEED_BYTE stops (R38, R50). -/
theorem execFeedByte_completes (b : Byte) : ∃ t, execFeedByte b s = .next t := by
  obtain ⟨hrefused, hfault⟩ := execFeedByte_stops (b := b) (s := s)
  cases he : execFeedByte b s with
  | next t => exact ⟨t, rfl⟩
  | refused r => exact absurd he (hrefused r)
  | fault r =>
    obtain ⟨hi, ⟨hp, -⟩ | ⟨hp, hoff, -⟩⟩ := hfault r he
    · exact absurd hp (h.parser hi).not_code7
    · obtain ⟨-, hle, hlt⟩ := (h.parser hi).receiving hp
      simp [hasOffset_payload hlt hle] at hoff

theorem exec_completes (i : Instr) : ∃ t, exec i s = .next t := by
  cases i with
  | init ctx => exact ⟨_, execInit_eq ctx s⟩
  | feedByte data => exact execFeedByte_completes h data
  | crcFold acc data => exact ⟨_, execCrcFold_eq acc data s⟩

theorem performWord_completes (w : CmdWord) : ∃ t, performWord w s = .next t := by
  unfold performWord
  split
  · exact exec_completes h _
  · exact ⟨_, rfl⟩

theorem take_completes (ht : s.takeEnabled = true) : ∃ t, take s = .next t :=
  ⟨_, take_eq (h.len_le_of_pending ((takeEnabled_iff s).1 ht).1)⟩

theorem takeIfEnabled_completes : ∃ t, s.takeIfEnabled = .next t := by
  unfold State.takeIfEnabled
  split
  · exact take_completes h ‹_›
  · exact ⟨_, rfl⟩

theorem transact_completes : ∃ t, s.transact = .next t := by
  unfold State.transact
  split
  · exact take_completes h ‹_›
  split
  · exact ⟨_, rfl⟩
  split
  · exact performWord_completes (h.congr (t := s.consumeWord) rfl rfl) _
  · exact ⟨_, rfl⟩

end

/-- Settles O37: encoding 7 has no row, and in the invariant every FEED_BYTE completes. -/
theorem feedByteStopsOnlyOutsideTheInvariant : Obligations.FeedByteStopsOnlyOutsideTheInvariant := by
  refine fun b s => ⟨fun hi hp => ?_, fun h => execFeedByte_completes h b⟩
  show execFeedByte b s = .fault .pstateCode7
  simp [execFeedByte, hi, hp]

/-- Settles O42: a step resets, only drives, or makes a transaction that completes. -/
theorem theMachineNeverStops : Obligations.TheMachineNeverStops := by
  intro s h
  cases hr : s.rstInStep
  · rw [step_low hr]
    cases s.nextMove with
    | block => exact transact_completes h.driven
    | host w => exact ⟨_, rfl⟩
    | sink ready addr => exact takeIfEnabled_completes h.driven
    | reset level => exact ⟨_, rfl⟩
  · exact ⟨_, step_reset hr⟩

/-! ### The command of an accepted word -/

section
variable (w : CmdWord)

theorem opField_toNat : (opField w).toNat = w.toNat / 2 ^ 28 := by
  simp [opField, Nat.shiftRight_eq_div_pow]; omega

theorem rsvField_toNat : (rsvField w).toNat = w.toNat / 2 ^ 24 % 2 ^ 4 := by
  simp [rsvField, Nat.shiftRight_eq_div_pow]

theorem ctxField_toNat : (ctxField w).toNat = w.toNat % 2 ^ 24 := by simp [ctxField]

theorem accField_toNat : (accField w).toNat = w.toNat / 2 ^ 8 % 2 ^ 16 := by
  simp [accField, Nat.shiftRight_eq_div_pow]

theorem dataField_toNat : (dataField w).toNat = w.toNat % 2 ^ 8 := by simp [dataField]

end

/-- An operand beside the opcode is added to it, since their bits do not overlap. -/
theorem encode_init_toNat (c : Ctx) : (encode (.init c)).toNat = 2 ^ 28 * 1 + c.toNat := by
  have hc : c.toNat < 2 ^ 28 := by omega
  rw [Nat.two_pow_add_eq_or_of_lt hc]
  simp (disch := omega) [encode, Nat.mod_eq_of_lt]

theorem encode_feedByte_toNat (b : Byte) : (encode (.feedByte b)).toNat = 2 ^ 28 * 2 + b.toNat := by
  have hb : b.toNat < 2 ^ 28 := by omega
  rw [Nat.two_pow_add_eq_or_of_lt hb]
  simp (disch := omega) [encode, Nat.mod_eq_of_lt]

theorem encode_crcFold_toNat (acc : Acc) (b : Byte) :
    (encode (.crcFold acc b)).toNat = 2 ^ 28 * 3 + (2 ^ 8 * acc.toNat + b.toNat) := by
  have hb : 2 ^ 8 * acc.toNat + b.toNat < 2 ^ 28 := by omega
  rw [Nat.two_pow_add_eq_or_of_lt hb, Nat.two_pow_add_eq_or_of_lt b.isLt]
  simp (disch := omega) [encode, Nat.mod_eq_of_lt, Nat.shiftLeft_eq, Nat.mul_comm, Nat.or_assoc]

/-- Only a command's encoding decodes to it (R78 to R80, R82). -/
theorem encode_of_decode {w : CmdWord} {i : Instr} (h : decode w = .ok i) : encode i = w := by
  have hop := opField_toNat w
  have hrsv := rsvField_toNat w
  unfold decode at h
  refine BitVec.eq_of_toNat_eq ?_
  split at h
  · split at h <;> cases h
    rename_i h1 hr
    rw [h1] at hop
    rw [not_not.1 hr] at hrsv
    rw [encode_init_toNat, ctxField_toNat]
    bv_omega
  split at h
  · split at h <;> cases h
    rename_i h2 hr
    obtain ⟨hr, ha⟩ : rsvField w = 0 ∧ accField w = 0 := by simpa using hr
    have hacc := accField_toNat w
    rw [h2] at hop
    rw [hr] at hrsv
    rw [ha] at hacc
    rw [encode_feedByte_toNat, dataField_toNat]
    bv_omega
  split at h
  · split at h <;> cases h
    rename_i h3 hr
    rw [h3] at hop
    rw [not_not.1 hr] at hrsv
    rw [encode_crcFold_toNat, accField_toNat, dataField_toNat]
    bv_omega
  · cases h

/-- The accepted word is its command's encoding, and the words behind it stay on offer (R59, R165). -/
theorem host_of_accepted {s t : State} {w : CmdWord} {ws : List CmdWord} {i : Instr} (hm : s.nextMove = .block)
    (hh : s.host = w :: ws) (hdec : decode w = .ok i) (hexec : exec i s.driven.consumeWord = .next t) :
    s.host = encode i :: t.host := by
  have hhost : t.host = ws := by simpa [driven_of_block hm, hh] using (exec_sameSurroundings hexec).host
  rw [encode_of_decode hdec, hhost, hh]

/-! ### What FEED_BYTE does to CTX and DLV_PEND -/

section
variable {s t : State} {b : Byte}

/-- FEED_BYTE raises NOT_INITIALIZED, or writes no status register itself and at most completes the frame. -/
theorem execFeedByte_sameStatus_or_completes (h : execFeedByte b s = .next t) :
    t = s.raiseFault .notInitialized ∨ sameStatus s t ∨ ∃ u, t = u.complete ∧ sameStatus s u := by
  rcases execFeedByte_cases h with ⟨-, ht⟩ | ⟨-, hE | ⟨-, rfl⟩ | hT | ⟨-, rfl⟩ | ⟨-, hnext⟩ | ⟨-, -, hnext⟩⟩
  · exact .inl ht
  · obtain ⟨-, ⟨-, rfl⟩ | ⟨-, rfl⟩⟩ := hE <;> exact .inr (.inl ⟨rfl, rfl, rfl, rfl⟩)
  · exact .inr (.inl ⟨rfl, rfl, rfl, rfl⟩)
  · obtain ⟨-, ⟨-, rfl⟩ | ⟨-, rfl⟩⟩ := hT <;> exact .inr (.inl ⟨rfl, rfl, rfl, rfl⟩)
  · exact .inr (.inl ⟨rfl, rfl, rfl, rfl⟩)
  · obtain ⟨-, rfl⟩ | ⟨-, rfl⟩ := hnext
    · exact .inr (.inr ⟨_, rfl, rfl, rfl, rfl, rfl⟩)
    · exact .inr (.inl ⟨rfl, rfl, rfl, rfl⟩)
  · obtain ⟨-, rfl⟩ | ⟨-, rfl⟩ := hnext
    · exact .inr (.inr ⟨_, rfl, rfl, rfl, rfl, rfl⟩)
    · exact .inr (.inl ⟨rfl, rfl, rfl, rfl⟩)

theorem execFeedByte_ctx (h : execFeedByte b s = .next t) : t.blk.ctx = s.blk.ctx := by
  obtain rfl | ht | ⟨u, rfl, hu⟩ := execFeedByte_sameStatus_or_completes h
  · rfl
  · exact ht.ctx
  · rcases complete_cases u with ⟨-, he⟩ | ⟨-, he⟩ <;> rw [he] <;> exact hu.ctx

/-- FEED_BYTE leaves DLV_PEND, or presents a frame whose checksum matches (R131, R132). -/
theorem execFeedByte_dlvPend (h : execFeedByte b s = .next t) :
    t.blk.dlvPend = s.blk.dlvPend ∨ (t.blk.pstate = .gotComplete ∧ t.blk.calc = t.blk.ck) := by
  obtain rfl | ht | ⟨u, rfl, hu⟩ := execFeedByte_sameStatus_or_completes h
  · exact .inl rfl
  · exact .inl ht.dlvPend
  · rcases complete_cases u with ⟨hck, he⟩ | ⟨-, he⟩ <;> rw [he]
    · exact .inr ⟨rfl, hck⟩
    · exact .inl hu.dlvPend

end

/-- A command that makes DLV_PEND rise is a FEED_BYTE that presents a frame. -/
theorem exec_dlvPend_rises {i : Instr} {s t : State} (h : exec i s = .next t) (hs : s.blk.dlvPend = false)
    (ht : t.blk.dlvPend = true) : (∃ b, i = .feedByte b) ∧ t.blk.pstate = .gotComplete ∧ t.blk.calc = t.blk.ck := by
  cases i with
  | init ctx => cases h; simp [hs] at ht
  | feedByte data => exact ⟨⟨data, rfl⟩, (execFeedByte_dlvPend h).resolve_left (by simp [hs, ht])⟩
  | crcFold acc data => cases h; simp [hs] at ht

/-- A command that changes CTX is the INIT of its new value (R28). -/
theorem exec_ctx_changes {i : Instr} {s t : State} (h : exec i s = .next t) (hne : t.blk.ctx ≠ s.blk.ctx) :
    i = .init t.blk.ctx := by
  cases i with
  | init ctx => cases h; rfl
  | feedByte data => exact absurd (execFeedByte_ctx h) hne
  | crcFold acc data => cases h; exact absurd rfl hne

/-! ### The statements about DLV_PEND, CTX and the outputs -/

/-- DLV_PEND rises only in a step in which BLOCK accepts a FEED_BYTE that presents a frame (R30, R132). -/
theorem step_dlvPend_rises {s t : State} (h : step s = .next t) (hs : s.blk.dlvPend = false) (ht : t.blk.dlvPend = true) :
    s.nextMove = .block ∧ (∃ b, s.host = encode (.feedByte b) :: t.host) ∧ t.blk.pstate = .gotComplete ∧
      t.blk.calc = t.blk.ck := by
  rcases step_cases h with ⟨-, rfl⟩ | ⟨-, ⟨-, hpend, -, -⟩ | ⟨hm, -, w, ws, hh, hacc⟩ | ⟨-, rfl⟩⟩
  · simp at ht
  · simp [hs] at hpend
  · rcases hacc with ⟨i, hdec, hexec⟩ | ⟨e, -, rfl⟩
    · obtain ⟨⟨b, rfl⟩, hp, hck⟩ := exec_dlvPend_rises hexec (by simpa using hs) ht
      exact ⟨hm, ⟨b, host_of_accepted hm hh hdec hexec⟩, hp, hck⟩
    · simp [hs] at ht
  · simp [hs] at ht

/-- While a delivery pends a step resets, takes it, or leaves the block as it is. -/
theorem step_pending_cases {s t : State} (h : step s = .next t) (hs : s.blk.dlvPend = true) :
    (s.rstInStep = true ∧ t = s.driven.resetBlock) ∨
    (s.rstInStep = false ∧
      ((s.readyInStep = true ∧ t = ((s.driven.emit (.delivery s.blk.delivery)).setDlvPend false).clear) ∨
       (s.readyInStep = false ∧ t = s.driven))) := by
  rcases step_cases h with hr | ⟨hr, ⟨hy, -, htake, -⟩ | ⟨-, hrdy, -⟩ | ⟨hn, rfl⟩⟩
  · exact .inl hr
  · rcases take_cases s.driven with ⟨-, he⟩ | ⟨-, he⟩ <;> rw [he] at htake <;> cases htake
    exact .inr ⟨hr, .inl ⟨hy, by rw [s.driven_blk]⟩⟩
  · simp [cmdReady_iff, hs] at hrdy
  · exact .inr ⟨hr, .inr ⟨hn.resolve_right (by simp [hs]), rfl⟩⟩

/-- Settles O46: the rise by the accepted command, the hold and the two falls by the cases of a step with a delivery pending. -/
theorem deliveryPendsFromFeedByteUntilTakeOrReset : Obligations.DeliveryPendsFromFeedByteUntilTakeOrReset := by
  intro s t h
  have hgrows : ∃ more, s.driven.host = s.host ++ more := by
    rcases s.driven_host with hh | ⟨w, -, hh⟩
    · exact ⟨[], by simp [hh]⟩
    · exact ⟨[w], hh⟩
  refine ⟨step_dlvPend_rises h, fun hs => ?_, fun hs => ?_⟩
  · rcases step_pending_cases h hs with ⟨-, rfl⟩ | ⟨-, ⟨-, rfl⟩ | ⟨-, rfl⟩⟩ <;> exact hgrows
  · rcases step_pending_cases h hs with ⟨hr, rfl⟩ | ⟨hr, ⟨hy, rfl⟩ | ⟨hy, rfl⟩⟩
    · simp [hr]
    · simp [hr, hy]
    · simp [hr, hy, hs]

/-- Settles O47: a step writes CTX by its RESET, or by the command it accepts. -/
theorem onlyInitWritesTheContext : Obligations.OnlyInitWritesTheContext := by
  intro s t h
  refine ⟨fun hne => ?_, fun hr => ?_⟩
  · rcases step_cases h with ⟨hr, -⟩ | ⟨-, ⟨-, -, htake, -⟩ | ⟨hm, -, w, ws, hh, hacc⟩ | ⟨-, rfl⟩⟩
    · exact .inl hr
    · rcases take_cases s.driven with ⟨-, he⟩ | ⟨-, he⟩ <;> rw [he] at htake <;> cases htake
      simp at hne
    · rcases hacc with ⟨i, hdec, hexec⟩ | ⟨e, -, rfl⟩
      · have hi : i = .init t.blk.ctx := exec_ctx_changes hexec (by simpa using hne)
        exact .inr ⟨hm, hi ▸ host_of_accepted hm hh hdec hexec⟩
      · simp at hne
    · simp at hne
  · rw [step_reset hr] at h
    cases h
    rfl

/-- Settles O14: the values of State.reset, read off. -/
theorem resetStateHoldsTheResetValues : Obligations.ResetStateHoldsTheResetValues := ⟨rfl, rfl, rfl, rfl, rfl, rfl⟩

/-- Settles O17: `State.outputs` reads none of the three fields, so both sides are the same record. -/
theorem outputsHideTheParserState : Obligations.OutputsHideTheParserState := fun _ _ _ _ => rfl

end Sys2Proof.Machine
end

section
/-! SUPPORT. The storage and the operations over it (20_memory.md): INIT, the offsets that do not exist, what a command or a TAKE does to the
storage, to the words on offer and to the events. With them the statements of 20_memory.md are settled. -/

namespace Sys2Proof.Machine

/-- Settles O19: INIT's next state is INIT's own result, so the second INIT writes what is there already. -/
theorem initIsIdempotent : Obligations.InitIsIdempotent := by
  intro ctx s t h
  change execInit ctx s = .next t at h
  change execInit ctx t = .next t
  rw [execInit_eq] at h ⊢
  cases h
  rfl

/-! ### Offsets beyond the storage (R50) -/

section
variable {s : State}

/-- A payload index names a storage byte exactly when it is below MAX_PAYLOAD. -/
theorem hasOffset_payloadOffset_iff (i : Nat) : s.hasOffset (payloadOffset i) = true ↔ i < s.maxPayload.toNat := by
  simp [State.hasOffset, State.storageSize, payloadOffset]

theorem execFeedByte_of_receiving (b : Byte) (hi : s.blk.initd = true) (hp : s.blk.pstate = .receivingPayload) :
    execFeedByte b s = feedReceivingPayload b s := by
  simp [execFeedByte, hi, hp]

theorem feedReceivingPayload_of_beyond (b : Byte) (h : s.maxPayload.toNat ≤ s.blk.cnt.toNat) :
    feedReceivingPayload b s = .fault .noSuchOffset := by
  have hoff : ¬ s.hasOffset (payloadOffset s.blk.cnt.toNat) = true := by
    rw [hasOffset_payloadOffset_iff]; omega
  exact if_neg hoff

theorem take_of_long_record (h : s.maxPayload.toNat < s.blk.len.toNat) : take s = .fault .noSuchOffset := by
  rcases take_cases s with ⟨hfits, -⟩ | ⟨-, he⟩
  · exact absurd ((payloadInStorage_iff s).1 hfits) (by bv_omega)
  · exact he

end

/-- Settles O38: the store of the payload byte, and the read of the record, meet the check of the offset. -/
theorem accessBeyondTheStorageIsAModelFault : Obligations.AccessBeyondTheStorageIsAModelFault :=
  ⟨fun b _ hi hp hcnt => (execFeedByte_of_receiving b hi hp).trans (feedReceivingPayload_of_beyond b hcnt),
    fun _ => take_of_long_record⟩

/-! ### What a transaction does to the storage -/

section
variable {s t : State}

theorem complete_mem (u : State) : u.complete.blk.mem = u.blk.mem ∨ u.complete.blk.mem = Memory.zeroed := by
  rcases complete_cases u with ⟨-, he⟩ | ⟨-, he⟩ <;> rw [he]
  · exact .inl rfl
  · exact .inr rfl

/-- FEED_BYTE leaves the storage, clears it, or writes its byte at one offset. -/
theorem execFeedByte_mem {b : Byte} (h : execFeedByte b s = .next t) :
    t.blk.mem = s.blk.mem ∨ t.blk.mem = Memory.zeroed ∨ ∃ a, t.blk.mem = s.blk.mem.write a b := by
  have hcomplete {u : State} {a : Nat} (hu : u.blk.mem = s.blk.mem.write a b) :
      u.complete.blk.mem = Memory.zeroed ∨ ∃ a, u.complete.blk.mem = s.blk.mem.write a b :=
    (complete_mem u).symm.imp_right fun hm => ⟨a, hm.trans hu⟩
  rcases execFeedByte_cases h with ⟨-, rfl⟩ | ⟨-, hE | ⟨-, rfl⟩ | hT | ⟨-, rfl⟩ | ⟨-, hnext⟩ | ⟨-, -, hnext⟩⟩
  · exact .inl rfl
  · obtain ⟨-, ⟨-, rfl⟩ | ⟨-, rfl⟩⟩ := hE
    · exact .inr (.inr ⟨_, rfl⟩)
    · exact .inl rfl
  · exact .inr (.inr ⟨_, rfl⟩)
  · obtain ⟨-, ⟨-, rfl⟩ | ⟨-, rfl⟩⟩ := hT
    · exact .inr (.inr ⟨_, rfl⟩)
    · exact .inr (.inl rfl)
  · exact .inr (.inr ⟨_, rfl⟩)
  · obtain ⟨-, rfl⟩ | ⟨-, rfl⟩ := hnext
    · exact .inr (hcomplete rfl)
    · exact .inr (.inr ⟨_, rfl⟩)
  · obtain ⟨-, rfl⟩ | ⟨-, rfl⟩ := hnext
    · exact .inr (hcomplete rfl)
    · exact .inr (.inr ⟨_, rfl⟩)

/-- A command keeps the canonical form. -/
theorem exec_mem_wf {i : Instr} (hwf : s.blk.mem.wf = true) (h : exec i s = .next t) : t.blk.mem.wf = true := by
  cases i with
  | init ctx => cases h; exact Memory.wf_zeroed
  | feedByte data =>
    obtain he | he | ⟨a, he⟩ := execFeedByte_mem h <;> rw [he]
    · exact hwf
    · exact Memory.wf_zeroed
    · exact Memory.wf_write a data hwf
  | crcFold acc data => cases h; exact hwf

/-- A completed TAKE emits the pending record, and the receiver is cleared (R161). -/
theorem eq_of_take (h : take s = .next t) : t = ((s.emit (.delivery s.blk.delivery)).setDlvPend false).clear := by
  rcases take_cases s with ⟨-, he⟩ | ⟨-, he⟩ <;> rw [he] at h <;> cases h
  rfl

end

/-- Settles O43: a RESET fills the storage with free bytes, a TAKE empties it, a command keeps its form and anything else leaves it. -/
theorem everyStepKeepsTheStorageCanonical : Obligations.EveryStepKeepsTheStorageCanonical := by
  intro s t hwf h
  have hdriven : s.driven.blk.mem.wf = true := by rwa [s.driven_blk]
  rcases step_cases h with ⟨-, rfl⟩ | ⟨-, ⟨-, -, htake, -⟩ | ⟨-, -, w, ws, -, hacc⟩ | ⟨-, rfl⟩⟩
  · exact Memory.wf_ofBytes _ _
  · obtain rfl := eq_of_take htake
    exact Memory.wf_zeroed
  · rcases hacc with ⟨i, -, hexec⟩ | ⟨e, -, rfl⟩
    · exact exec_mem_wf (s := s.driven.consumeWord) hdriven hexec
    · exact hdriven
  · exact hdriven

/-! ### The words on offer and the events of a step -/

/-- Settles O12: BLOCK's accepted command takes the oldest word; RESET, TAKE and an idle step leave the words as the agent drove them. -/
theorem commandsAreAcceptedInOrderWhenReady : Obligations.CommandsAreAcceptedInOrderWhenReady := by
  intro s t h
  have hoffer := s.driven_host
  rcases step_cases h with ⟨-, rfl⟩ | ⟨hr, ⟨-, -, htake, hhost⟩ | ⟨hm, hrdy, w, ws, hh, hacc⟩ | ⟨-, rfl⟩⟩
  · exact hoffer.imp_right .inl
  · exact .inl ((take_sameSurroundings htake).host.trans hhost)
  · have htaken : ∃ w, s.host = w :: t.host := by
      rcases hacc with ⟨i, hdec, hexec⟩ | ⟨e, -, rfl⟩
      · exact ⟨_, host_of_accepted hm hh hdec hexec⟩
      · exact ⟨w, by simp [driven_of_block hm, hh]⟩
    have hrst : s.pins.rst = false := by simpa [State.rstInStep, hm] using hr
    obtain ⟨hpend, hfault⟩ := (cmdReady_iff _).1 hrdy
    exact .inr (.inr ⟨hm, htaken, hpend, hfault, hrst⟩)
  · exact hoffer.imp_right .inl

/-- A command emits nothing, or the CRC result that it puts on the response port (R86, R103). -/
theorem exec_emits {i : Instr} {s t : State} (h : exec i s = .next t) :
    (t.events = s.events ∧ t.rsp = s.rsp) ∨ ∃ v, t.events = s.events ++ [.crcResult v] ∧ t.rsp = some v := by
  cases i with
  | init ctx => cases h; exact .inl ⟨rfl, rfl⟩
  | feedByte data =>
    have hsame := execFeedByte_sameOutside h
    exact .inl ⟨hsame.events, hsame.rsp⟩
  | crcFold acc data => cases h; exact .inr ⟨_, rfl, rfl⟩

/-- Settles O48: only TAKE and an accepted CRC_FOLD emit; every step begins with the response port idle. -/
theorem aStepEmitsAtMostOneEvent : Obligations.AStepEmitsAtMostOneEvent := by
  intro s t h
  rcases step_cases h with ⟨-, rfl⟩ | ⟨-, ⟨-, hpend, htake, -⟩ | ⟨-, -, w, ws, -, hacc⟩ | ⟨-, rfl⟩⟩
  · exact .inl ⟨s.driven_events, s.driven_rsp⟩
  · obtain rfl := eq_of_take htake
    exact .inr (.inr (by simp [hpend]))
  · rcases hacc with ⟨i, -, hexec⟩ | ⟨e, -, rfl⟩
    · rcases exec_emits hexec with ⟨he, hrsp⟩ | ⟨v, he, hrsp⟩
      · exact .inl ⟨by simp [he], by simp [hrsp]⟩
      · exact .inr (.inl ⟨v, by simp [he], hrsp⟩)
    · exact .inl ⟨s.driven_events, s.driven_rsp⟩
  · exact .inl ⟨s.driven_events, s.driven_rsp⟩

end Sys2Proof.Machine
end

section
/-! SUPPORT. The encodings (30_encoding.md): the decoder by opcode, the fields of an encoded command, the rows of the opcode table, the
assembler's words, the wire frame and BLOCK's step that accepts a word. With them the statements of 30_encoding.md are settled. -/

namespace Sys2Proof.Machine

/-! ### The decoder, opcode by opcode (R82) -/

section
variable {w : CmdWord}

theorem decode_of_opInit (h : opField w = 1) :
    decode w = if rsvField w ≠ 0 then .error .reservedField else .ok (.init (ctxField w)) := by
  simp [decode, h]

theorem decode_of_opFeedByte (h : opField w = 2) :
    decode w = if rsvField w ≠ 0 ∨ accField w ≠ 0 then .error .reservedField else .ok (.feedByte (dataField w)) := by
  simp [decode, h]

theorem decode_of_opCrcFold (h : opField w = 3) :
    decode w = if rsvField w ≠ 0 then .error .reservedField else .ok (.crcFold (accField w) (dataField w)) := by
  simp [decode, h]

/-- An opcode of the table (R81). -/
def LegalOpcode (w : CmdWord) : Prop := opField w = 1 ∨ opField w = 2 ∨ opField w = 3

/-- A reserved bit of the word's own opcode is set: those of FEED_BYTE reach down to bit 8 (R79, R83). -/
abbrev ReservedBitSet (w : CmdWord) : Prop := rsvField w ≠ 0 ∨ opField w = 2 ∧ accField w ≠ 0

theorem decode_of_illegalOpcode (h : ¬ LegalOpcode w) : decode w = .error .illegalOpcode := by
  obtain ⟨h1, h2, h3⟩ : opField w ≠ 1 ∧ opField w ≠ 2 ∧ opField w ≠ 3 := by simpa [LegalOpcode] using h
  rw [decode, if_neg h1, if_neg h2, if_neg h3]

/-- With a legal opcode the reserved bits decide whether there is a command. -/
theorem decode_of_legalOpcode (h : LegalOpcode w) :
    ∃ i, decode w = if ReservedBitSet w then .error .reservedField else .ok i := by
  rcases h with hop | hop | hop
  · exact ⟨.init (ctxField w), by simp [decode_of_opInit hop, ReservedBitSet, hop]⟩
  · exact ⟨.feedByte (dataField w), by simp [decode_of_opFeedByte hop, ReservedBitSet, hop]⟩
  · exact ⟨.crcFold (accField w) (dataField w), by simp [decode_of_opCrcFold hop, ReservedBitSet, hop]⟩

/-- The three outcomes of the decoder; the opcode is checked before the reserved bits (R182). -/
theorem decode_cases (w : CmdWord) :
    (¬ LegalOpcode w ∧ decode w = .error .illegalOpcode) ∨
    (LegalOpcode w ∧ ReservedBitSet w ∧ decode w = .error .reservedField) ∨
    (LegalOpcode w ∧ ¬ ReservedBitSet w ∧ ∃ i, decode w = .ok i) := by
  by_cases hop : LegalOpcode w
  · obtain ⟨i, hd⟩ := decode_of_legalOpcode hop
    by_cases hrsv : ReservedBitSet w
    · exact .inr (.inl ⟨hop, hrsv, hd.trans (if_pos hrsv)⟩)
    · exact .inr (.inr ⟨hop, hrsv, i, hd.trans (if_neg hrsv)⟩)
  · exact .inl ⟨hop, decode_of_illegalOpcode hop⟩

end

/-- Settles O3: each of the decoder's three outcomes decides both equations. -/
theorem decodeRejectsByNameInOrder : Obligations.DecodeRejectsByNameInOrder := by
  intro w
  change (decode w = .error .illegalOpcode ↔ ¬ LegalOpcode w) ∧
    (decode w = .error .reservedField ↔ LegalOpcode w ∧ ReservedBitSet w)
  rcases decode_cases w with ⟨hop, hd⟩ | ⟨hop, hrsv, hd⟩ | ⟨hop, hrsv, i, hd⟩
  · simp [hop, hd]
  · simp [hop, hrsv, hd]
  · simp [hop, hrsv, hd]

/-! ### The fields of an encoded command (R77 to R80) -/

section
variable (c : Ctx) (acc : Acc) (b : Byte)

theorem fields_encode_init :
    opField (encode (.init c)) = 1 ∧ rsvField (encode (.init c)) = 0 ∧ ctxField (encode (.init c)) = c := by
  have hw := encode_init_toNat c
  have hop := opField_toNat (encode (.init c))
  have hrsv := rsvField_toNat (encode (.init c))
  have hctx := ctxField_toNat (encode (.init c))
  refine ⟨?_, ?_, ?_⟩ <;> bv_omega

theorem fields_encode_feedByte :
    opField (encode (.feedByte b)) = 2 ∧ rsvField (encode (.feedByte b)) = 0 ∧ accField (encode (.feedByte b)) = 0 ∧
      dataField (encode (.feedByte b)) = b := by
  have hw := encode_feedByte_toNat b
  have hop := opField_toNat (encode (.feedByte b))
  have hrsv := rsvField_toNat (encode (.feedByte b))
  have hacc := accField_toNat (encode (.feedByte b))
  have hdata := dataField_toNat (encode (.feedByte b))
  refine ⟨?_, ?_, ?_, ?_⟩ <;> bv_omega

theorem fields_encode_crcFold :
    opField (encode (.crcFold acc b)) = 3 ∧ rsvField (encode (.crcFold acc b)) = 0 ∧ accField (encode (.crcFold acc b)) = acc ∧
      dataField (encode (.crcFold acc b)) = b := by
  have hw := encode_crcFold_toNat acc b
  have hop := opField_toNat (encode (.crcFold acc b))
  have hrsv := rsvField_toNat (encode (.crcFold acc b))
  have hacc := accField_toNat (encode (.crcFold acc b))
  have hdata := dataField_toNat (encode (.crcFold acc b))
  refine ⟨?_, ?_, ?_, ?_⟩ <;> bv_omega

end

/-- A command's encoding decodes to it: its opcode chooses the row, its reserved bits are 0 and its operand fields are the operands. -/
@[simp] theorem decode_encode (i : Instr) : decode (encode i) = .ok i := by
  cases i with
  | init ctx =>
    obtain ⟨hop, hrsv, hctx⟩ := fields_encode_init ctx
    simp [decode_of_opInit hop, hrsv, hctx]
  | feedByte data =>
    obtain ⟨hop, hrsv, hacc, hdata⟩ := fields_encode_feedByte data
    simp [decode_of_opFeedByte hop, hrsv, hacc, hdata]
  | crcFold acc data =>
    obtain ⟨hop, hrsv, hacc, hdata⟩ := fields_encode_crcFold acc data
    simp [decode_of_opCrcFold hop, hrsv, hacc, hdata]

/-- Settles O1: a decoded word is its command's encoding, and the encoding decodes to the command. -/
theorem decodeIsTheInverseOfEncode : Obligations.DecodeIsTheInverseOfEncode :=
  fun _ i => ⟨encode_of_decode, fun h => h ▸ decode_encode i⟩

/-- Settles O4: each word is the encoding of its command. -/
theorem writtenOutWordsDecode : Obligations.WrittenOutWordsDecode :=
  ⟨decode_encode (.init 0xABCDEF), decode_encode (.feedByte 0xA1), decode_encode (.crcFold 0x1E0E 0x81)⟩

/-! ### The rows of the opcode table (R83) -/

theorem encode_wellFormed (i : Instr) : CmdWord.wellFormed (encode i) = true := by
  have hrow : Laws.EncodesTableRow.Statement i := by
    cases i with
    | init ctx => exact Laws.EncodesTableRow.init ctx
    | feedByte data => exact Laws.EncodesTableRow.feedByte data
    | crcFold acc data => exact Laws.EncodesTableRow.crcFold acc data
  exact List.any_eq_true.2 ⟨_, hrow⟩

section
variable (w : CmdWord)

/-- The bits outside the mask of INIT and CRC_FOLD are the operand of INIT. -/
theorem masked_or_ctxField : (w &&& 0xFF000000) ||| (ctxField w).setWidth 32 = w := by
  ext k hk
  interval_cases k <;> simp [ctxField]

/-- The bits outside the mask of FEED_BYTE are its operand. -/
theorem masked_or_dataField : (w &&& 0xFFFFFF00) ||| (dataField w).setWidth 32 = w := by
  ext k hk
  interval_cases k <;> simp [dataField]

/-- The operands of CRC_FOLD fill the field that is INIT's operand. -/
theorem encode_crcFold_fields :
    encode (.crcFold (accField w) (dataField w)) = 0x30000000 ||| (ctxField w).setWidth 32 := by
  ext k hk
  interval_cases k <;> simp [encode, accField, dataField, ctxField]

/-- A word of a row is the encoding of its own operand fields. -/
theorem exists_encode_of_wellFormed (h : w.wellFormed = true) : ∃ i, encode i = w := by
  have hrow : (w &&& 0xFF000000) = 0x10000000 ∨ (w &&& 0xFFFFFF00) = 0x20000000 ∨ (w &&& 0xFF000000) = 0x30000000 := by
    simpa [CmdWord.wellFormed, opcodeTable, OpcodeRow.matchesWord] using h
  rcases hrow with hrow | hrow | hrow
  · exact ⟨.init (ctxField w), by rw [encode, ← hrow, masked_or_ctxField]⟩
  · exact ⟨.feedByte (dataField w), by rw [encode, ← hrow, masked_or_dataField]⟩
  · exact ⟨.crcFold (accField w) (dataField w), by rw [encode_crcFold_fields, ← hrow, masked_or_ctxField]⟩

end

/-- Settles O2: the words that decode and the words of a row are both the encodings of the commands. -/
theorem decodeAcceptsExactlyTheTableWords : Obligations.DecodeAcceptsExactlyTheTableWords := by
  refine fun w => ⟨fun ⟨i, h⟩ => ?_, fun h => ?_⟩
  · exact encode_of_decode h ▸ encode_wellFormed i
  · obtain ⟨i, rfl⟩ := exists_encode_of_wellFormed w h
    exact ⟨i, decode_encode i⟩

/-! ### The assembler (R88 to R90) -/

theorem toNat_ofNat_of_lt {k n : Nat} (h : n < 2 ^ k) : (BitVec.ofNat k n).toNat = n := by
  rw [BitVec.toNat_ofNat, Nat.mod_eq_of_lt h]

@[simp] theorem isByte_iff (n : Nat) : isByte n = true ↔ n < 2 ^ 8 := decide_eq_true_iff

section
variable {M : Byte} {l : AsmLine}

theorem assemble_of_wellFormed (h : l.wellFormed M = true) : assemble M l = some (asmWords M l) := if_pos h

theorem assemble_of_not_wellFormed (h : ¬ l.wellFormed M = true) : assemble M l = none := if_neg h

end

/-- The command words of a byte sequence decode to one FEED_BYTE a byte, in order (R89). -/
theorem map_decode_feedWords (bs : List Byte) : (feedWords bs).map decode = bs.map fun b => .ok (.feedByte b) := by
  simp [feedWords, Function.comp_def]

/-- Settles O6: an operand in range is the number that its field holds, and the line's word is the command's encoding. -/
theorem assembledCommandKeepsItsOperands : Obligations.AssembledCommandKeepsItsOperands := by
  refine fun M => ⟨fun n hn => ?init, fun n hn => ?feedByte, fun a n ha hn => ?crcFold, fun n hn => ?noInit, fun n hn => ?noFeedByte,
    fun a n h => ?noCrcFold⟩
  case init =>
    exact ⟨_, BitVec.ofNat 24 n, assemble_of_wellFormed (by simpa [AsmLine.wellFormed] using hn), decode_encode _,
      toNat_ofNat_of_lt hn⟩
  case feedByte =>
    exact ⟨_, BitVec.ofNat 8 n, assemble_of_wellFormed (by simpa [AsmLine.wellFormed] using hn), decode_encode _,
      toNat_ofNat_of_lt hn⟩
  case crcFold =>
    exact ⟨_, BitVec.ofNat 16 a, BitVec.ofNat 8 n, assemble_of_wellFormed (by simpa [AsmLine.wellFormed] using ⟨ha, hn⟩),
      decode_encode _, toNat_ofNat_of_lt ha, toNat_ofNat_of_lt hn⟩
  case noInit => exact assemble_of_not_wellFormed (by simpa [AsmLine.wellFormed] using hn)
  case noFeedByte => exact assemble_of_not_wellFormed (by simpa [AsmLine.wellFormed] using hn)
  case noCrcFold =>
    refine assemble_of_not_wellFormed ?_
    simp only [AsmLine.wellFormed, Bool.and_eq_true, decide_eq_true_eq, isByte_iff]
    omega

/-- Settles O7: a line of bytes is well formed, and its words are those of `feedWords`. -/
theorem assembledFeedsIsOneCommandPerByte : Obligations.AssembledFeedsIsOneCommandPerByte := by
  refine fun M => ⟨rfl, fun bs hbs => ?_⟩
  refine ⟨_, assemble_of_wellFormed (by simpa [AsmLine.wellFormed] using hbs), ?_⟩
  rw [asmWords, map_decode_feedWords, List.map_map, Function.comp_def]

theorem frameBytes_of_le {M t : Byte} {p : List Byte} (h : p.length ≤ M.toNat) :
    frameBytes M t p = some (frameHeader t (BitVec.ofNat 8 p.length) (frameChecksum t p) ++ p) := if_pos h

theorem frame_wellFormed_iff (M : Byte) (t : Nat) (p : List Nat) :
    (AsmLine.frame t p).wellFormed M = true ↔ t < 2 ^ 8 ∧ (∀ n ∈ p, n < 2 ^ 8) ∧ p.length ≤ M.toNat := by
  simp [AsmLine.wellFormed, and_assoc]

/-- Settles O5: FrameBytes is defined within MAX_PAYLOAD, and FRAME's words are the FEED_BYTE words of it. -/
theorem assembledFrameFeedsItsFrameBytes : Obligations.AssembledFrameFeedsItsFrameBytes := by
  refine fun M t p => ⟨fun ht hp hlen => ?fits, fun hlen => ?long, fun h => ?noByte⟩
  case fits =>
    have hf := frameBytes_of_le (M := M) (t := BitVec.ofNat 8 t) (p := p.map (BitVec.ofNat 8)) (by simpa using hlen)
    refine ⟨_, _, hf, assemble_of_wellFormed ((frame_wellFormed_iff M t p).2 ⟨ht, hp, hlen⟩), ?_⟩
    rw [asmWords, hf, Option.getD_some, map_decode_feedWords]
  case long =>
    refine assemble_of_not_wellFormed fun hwf => ?_
    obtain ⟨-, -, hle⟩ := (frame_wellFormed_iff M t p).1 hwf
    omega
  case noByte =>
    refine assemble_of_not_wellFormed fun hwf => ?_
    obtain ⟨ht, hp, -⟩ := (frame_wellFormed_iff M t p).1 hwf
    rcases h with h | ⟨n, hn, h⟩
    · omega
    · have := hp n hn
      omega

/-! ### The wire frame (R73, R74) -/

section
variable (M m t n lo hi : Byte) (p : List Byte)

theorem isFrame_header_iff :
    isFrame M (m :: t :: n :: lo :: hi :: p) = true ↔
      m = startMarker ∧ n.toNat ≤ M.toNat ∧ p.length = n.toNat ∧ (hi ++ lo : BitVec (8 + 8)) = crc16 seed ([t, n] ++ p) := by
  simp [isFrame, BitVec.le_def, and_assoc]

/-- Two checksum bytes, low byte first, are those of an accumulator exactly when together they are it (R53). -/
theorem append_eq_iff_bytes (c : Acc) :
    (hi ++ lo : BitVec (8 + 8)) = c ↔ c.extractLsb' 0 8 = lo ∧ c.extractLsb' 8 8 = hi := by
  constructor
  · rintro rfl
    exact ⟨BitVec.extractLsb'_append_eq_right, BitVec.extractLsb'_append_eq_left⟩
  · rintro ⟨rfl, rfl⟩
    exact BitVec.extractLsb'_append_extractLsb'_eq_extractLsb' (by rfl) |>.trans (by simp)

/-- FrameBytes writes the header's five bytes and the payload. -/
theorem frameBytes_eq_header_iff :
    frameBytes M t p = some (m :: t :: n :: lo :: hi :: p) ↔
      m = startMarker ∧ p.length ≤ M.toNat ∧ BitVec.ofNat 8 p.length = n ∧ (hi ++ lo : BitVec (8 + 8)) = frameChecksum t p := by
  rw [append_eq_iff_bytes]
  by_cases h : p.length ≤ M.toNat
  · simp [frameBytes_of_le h, frameHeader, h, eq_comm (a := m)]
  · simp [frameBytes, h]

/-- With five bytes of header, the conditions of R74 say what FrameBytes writes. -/
theorem isFrame_iff_frameBytes_header :
    isFrame M (m :: t :: n :: lo :: hi :: p) = true ↔ frameBytes M t p = some (m :: t :: n :: lo :: hi :: p) := by
  rw [isFrame_header_iff, frameBytes_eq_header_iff]
  refine and_congr_right fun _ => ⟨?_, ?_⟩
  · rintro ⟨hn, hlen, hck⟩
    have hbyte : BitVec.ofNat 8 p.length = n := by rw [hlen, BitVec.ofNat_toNat, BitVec.setWidth_eq]
    exact ⟨hlen ▸ hn, hbyte, by rw [hck, frameChecksum, hbyte]⟩
  · rintro ⟨hle, rfl, hck⟩
    have hlen : (BitVec.ofNat 8 p.length).toNat = p.length := toNat_ofNat_of_lt (lt_of_le_of_lt hle M.isLt)
    exact ⟨by rwa [hlen], hlen.symm, hck⟩

end

theorem frameBytes_length {M t : Byte} {p f : List Byte} (h : frameBytes M t p = some f) : f.length = 5 + p.length := by
  unfold frameBytes at h
  split at h <;> cases h
  simp only [frameHeader, List.length_append, List.length_cons, List.length_nil, Nat.zero_add, Nat.reduceAdd]

theorem header_or_short (f : List Byte) :
    (∃ m t n lo hi p, f = m :: t :: n :: lo :: hi :: p) ∨ f.length < 5 := by
  match f with
  | m :: t :: n :: lo :: hi :: p => exact .inl ⟨m, t, n, lo, hi, p, rfl⟩
  | [] | [_] | [_, _] | [_, _, _] | [_, _, _, _] => exact .inr (by simp)

/-- Fewer bytes than a header are no frame. -/
theorem isFrame_of_short {f : List Byte} (M : Byte) (h : f.length < 5) : isFrame M f = false := by
  unfold isFrame
  split
  · simp at h; omega
  · rfl

/-- Settles O26: a sequence shorter than a header meets no side; one with a header meets the conditions byte by byte. -/
theorem wellFormedFramesAreFrameBytes : Obligations.WellFormedFramesAreFrameBytes := by
  intro M f
  obtain ⟨m, t, n, lo, hi, p, rfl⟩ | hshort := header_or_short f
  · refine ⟨?_, isFrame_iff_frameBytes_header M m t n lo hi p⟩
    rw [isFrame_header_iff]
    simp [Nat.add_comm 5]
  · rw [isFrame_of_short M hshort]
    refine ⟨iff_of_false (by simp) fun ⟨_, _, hlen, _⟩ => by omega, iff_of_false (by simp) fun h => ?_⟩
    have := frameBytes_length h
    omega

/-! ### BLOCK's step that accepts a word (R76, R82, R165) -/

@[simp] theorem tableWord_toNat (w : CmdWord) : tableWord 32 w.toNat = w := by
  rw [tableWord, Nat.mod_eq_of_lt w.isLt, BitVec.ofNat_toNat, BitVec.setWidth_eq]

theorem performWord_of_decode {w : CmdWord} {i : Instr} (h : decode w = .ok i) (s : State) : performWord w s = exec i s := by
  simp [performWord, h]

section
variable {s : State} {w : CmdWord} {ws : List CmdWord}

/-- A TAKE and a command are never enabled together (R188). -/
theorem takeEnabled_of_cmdReady (h : s.blk.cmdReady = true) : s.takeEnabled = false := by
  obtain ⟨hpend, -⟩ := (cmdReady_iff _).1 h
  simp [State.takeEnabled, hpend]

theorem transact_of_offered (hrdy : s.blk.cmdReady = true) (hh : s.host = w :: ws) : s.transact = performWord w s.consumeWord := by
  simp [State.transact, takeEnabled_of_cmdReady hrdy, hh, hrdy]

/-- BLOCK's step with rst low and cmd_ready = 1 performs the oldest word on offer. -/
theorem step_of_accepted (hm : s.nextMove = .block) (hr : s.pins.rst = false) (hrdy : s.blk.cmdReady = true) (hh : s.host = w :: ws) :
    step s = performWord w s.beginStep.consumeWord :=
  calc step s = blockStep s.beginStep := step_of_nextMove hm
    _ = s.beginStep.transact := unlessReset_low (s := s.beginStep) hr _
    _ = performWord w s.beginStep.consumeWord := transact_of_offered (s := s.beginStep) hrdy hh

end

/-- Settles O8: the step performs the word, which is to run its command. -/
theorem stepRunsTheDecodedCommand : Obligations.StepRunsTheDecodedCommand := by
  intro s w ws i hm hr hpend hfault hh hdec
  rw [step_of_accepted hm hr ((cmdReady_iff _).2 ⟨hpend, hfault⟩) hh, performWord_of_decode hdec]
  simp [State.beginStep, State.consumeWord, hh]

/-- Settles O9: in the state that `withFetchWord` builds, BLOCK's step accepts the command's encoding. -/
theorem fetchedWordIsTheNextCommand : Obligations.FetchedWordIsTheNextCommand := by
  intro s i
  rw [State.withFetchWord, tableWord_toNat]
  exact ⟨_, (step_of_accepted (s := s.offerOnly (encode i)) rfl rfl rfl rfl).trans (performWord_of_decode (decode_encode i) _),
    rfl, rfl, rfl, rfl⟩

end Sys2Proof.Machine
end

section
/-! SUPPORT. The Checksum Engine (40_crc_engine.md): the bit-serial form as an xor-linear map, the fold's equality with it, what follows for
one fold and for a sequence of folds, and the command CRC_FOLD. With them the statements of 40_crc_engine.md are settled. -/

namespace Sys2Proof.Machine

/-! ### The bit-serial form is xor-linear and injective (R102) -/

section
variable (x y : Acc)

/-- One shift moves the bits down and adds the polynomial constant for the bit that leaves. -/
theorem bitSerialShift_eq_xor : bitSerialShift x = x >>> 1 ^^^ if x.getLsbD 0 then 0x8408 else 0 := by
  unfold bitSerialShift
  split <;> simp

theorem bitSerialShift_xor : bitSerialShift (x ^^^ y) = bitSerialShift x ^^^ bitSerialShift y := by
  have hconst : ∀ p q : Bool, (if p ^^ q then 0x8408 else 0 : Acc) = (if p then 0x8408 else 0) ^^^ if q then 0x8408 else 0 := by decide
  simp only [bitSerialShift_eq_xor, BitVec.ushiftRight_xor_distrib, BitVec.getLsbD_xor, hconst]
  ac_rfl

theorem bitSerialRepeat_xor (n : Nat) : bitSerialRepeat n (x ^^^ y) = bitSerialRepeat n x ^^^ bitSerialRepeat n y := by
  induction n generalizing x y with
  | zero => rfl
  | succ n ih => simp only [bitSerialRepeat, bitSerialShift_xor, ih]

/-- The constant has its top bit set, which no bit moved down reaches; where it is not added, every bit moved down is kept. -/
theorem bitSerialShift_eq_zero_iff : bitSerialShift x = 0 ↔ x = 0 := by
  refine ⟨fun h => ?_, by rintro rfl; rfl⟩
  have hbit (i : Nat) := congrArg (·.getLsbD i) h
  unfold bitSerialShift at hbit
  split at hbit
  · simpa using hbit 15
  · rename_i heven
    refine BitVec.eq_of_getLsbD_eq fun i _ => ?_
    cases i with
    | zero => simpa using heven
    | succ i => simpa [Nat.add_comm] using hbit i

theorem bitSerialRepeat_eq_zero_iff (n : Nat) : bitSerialRepeat n x = 0 ↔ x = 0 := by
  induction n generalizing x with
  | zero => rfl
  | succ n ih => rw [bitSerialRepeat, ih, bitSerialShift_eq_zero_iff]

/-- Linear with kernel 0. -/
theorem bitSerialRepeat_injective (n : Nat) : Function.Injective (bitSerialRepeat n) := by
  intro x y h
  rw [← BitVec.xor_eq_zero_iff, ← bitSerialRepeat_xor] at h
  exact BitVec.xor_eq_zero_iff.1 ((bitSerialRepeat_eq_zero_iff _ n).1 h)

end

/-! ### The fold is the bit-serial form (R100, R102) -/

/-- The two parts of step 3 meet in no bit, so its `or` is an `xor`. -/
theorem high_or_low (t h : Byte) : t.setWidth 16 <<< 8 ||| h.setWidth 16 = t.setWidth 16 <<< 8 ^^^ h.setWidth 16 := by
  ext i hi
  by_cases hlow : i < 8
  · simp [hlow]
  · simp [BitVec.getLsbD_of_ge h i (by omega)]

theorem append_eq_high_xor_low (h l : Byte) : (h ++ l : BitVec (8 + 8)) = (h ++ 0#8 : BitVec (8 + 8)) ^^^ (0#8 ++ l) := by
  rw [BitVec.xor_append, BitVec.xor_zero, BitVec.zero_xor]

section
variable (b : Byte) (acc : Acc)

/-- The folded byte meets the accumulator's low byte; the high byte only moves down. -/
theorem crcFold_split : crcFold b acc = crcFold (b ^^^ acc.extractLsb' 0 8) 0 ^^^ (acc.extractLsb' 8 8).setWidth 16 := by
  have hlow : (0 : Acc).extractLsb' 0 8 = 0#8 := by decide
  have hhigh : ((0 : Acc).extractLsb' 8 8).setWidth 16 = 0#16 := by decide
  simp only [crcFold, high_or_low, hlow, hhigh, BitVec.xor_zero]
  ac_rfl

theorem acc_xor_byte :
    acc ^^^ b.setWidth 16 = (acc.extractLsb' 8 8 ++ (b ^^^ acc.extractLsb' 0 8) : BitVec (8 + 8)) :=
  have hacc : (acc.extractLsb' 8 8 ++ acc.extractLsb' 0 8 : BitVec (8 + 8)) = acc := (append_eq_iff_bytes _ _ acc).2 ⟨rfl, rfl⟩
  calc acc ^^^ b.setWidth 16 = (acc.extractLsb' 8 8 ++ acc.extractLsb' 0 8 : BitVec (8 + 8)) ^^^ (0#8 ++ b) := by
        rw [hacc, BitVec.setWidth_eq_append (by decide)]
        rfl
    _ = acc.extractLsb' 8 8 ++ (b ^^^ acc.extractLsb' 0 8) := by rw [BitVec.xor_append, BitVec.xor_zero, BitVec.xor_comm b]

/-- Eight shifts meet only the low byte: they move a high byte down unchanged. -/
theorem bitSerialRepeat_high : ∀ h : Byte, bitSerialRepeat 8 (h ++ 0#8) = h.setWidth 16 := by decide

theorem bitSerialRepeat_low : ∀ l : Byte, bitSerialRepeat 8 (0#8 ++ l) = crcFold l 0 := by decide

/-- Both sides are the xor of what they do to the two bytes of `acc ^ b`. -/
theorem crcFold_eq_bitSerial : crcFold b acc = bitSerial b acc :=
  let high := acc.extractLsb' 8 8
  let low := b ^^^ acc.extractLsb' 0 8
  calc crcFold b acc = crcFold low 0 ^^^ high.setWidth 16 := crcFold_split b acc
    _ = bitSerialRepeat 8 (high ++ 0#8) ^^^ bitSerialRepeat 8 (0#8 ++ low) := by
      rw [bitSerialRepeat_high, bitSerialRepeat_low, BitVec.xor_comm]
    _ = bitSerialRepeat 8 (high ++ low) := by rw [append_eq_high_xor_low high low, bitSerialRepeat_xor]
    _ = bitSerial b acc := by rw [bitSerial, acc_xor_byte]

end

/-- Settles O22. -/
theorem crcFoldIsTheBitSerialStep : Obligations.CrcFoldIsTheBitSerialStep := crcFold_eq_bitSerial

/-! ### One fold (R103) -/

theorem crcFold_injective_acc (b : Byte) : Function.Injective (crcFold b) := by
  intro x y h
  simp only [crcFold_eq_bitSerial] at h
  exact (BitVec.xor_left_inj _).1 (bitSerialRepeat_injective 8 h)

theorem crcFold_injective_byte (acc : Acc) : Function.Injective (fun b => crcFold b acc) := by
  intro b c h
  simp only [crcFold_eq_bitSerial] at h
  have hwide : b.setWidth 16 = c.setWidth 16 := (BitVec.xor_right_inj _).1 (bitSerialRepeat_injective 8 h)
  simpa using congrArg (BitVec.setWidth 8) hwide

theorem crcFold_eq_zero_iff (b : Byte) (acc : Acc) : crcFold b acc = 0 ↔ b = acc.extractLsb' 0 8 ∧ acc.extractLsb' 8 8 = 0 := by
  rw [crcFold_eq_bitSerial, bitSerial, bitSerialRepeat_eq_zero_iff, acc_xor_byte, append_eq_iff_bytes]
  simp [eq_comm (a := 0#8), BitVec.xor_eq_zero_iff]

/-- Settles O23: an injective map of the accumulators, which are finitely many, is a bijection. -/
theorem crcFoldIsBijectiveAndInjective : Obligations.CrcFoldIsBijectiveAndInjective :=
  ⟨fun b => Finite.injective_iff_bijective.1 (crcFold_injective_acc b), crcFold_injective_byte, crcFold_eq_zero_iff⟩

/-! ### Sequences of folds (R101, R105) -/

theorem crc16_append (acc : Acc) (a b : List Byte) : crc16 acc (a ++ b) = crc16 (crc16 acc a) b := by
  induction a generalizing acc with
  | nil => rfl
  | cons x a ih => exact ih (crcFold x acc)

/-- Settles O24. -/
theorem crc16FoldsConcatenations : Obligations.Crc16FoldsConcatenations := fun acc a b => ⟨rfl, crc16_append acc a b⟩

theorem crc16_injective_acc (p : List Byte) : Function.Injective (crc16 · p) := by
  induction p with
  | nil => exact Function.injective_id
  | cons b p ih => exact ih.comp (crcFold_injective_acc b)

/-- The changed byte changes its fold, and the folds after it keep the difference. -/
theorem crc16_ne_of_byte_ne {v v' : Byte} (h : v ≠ v') (acc : Acc) (p q : List Byte) :
    crc16 acc (p ++ v :: q) ≠ crc16 acc (p ++ v' :: q) := by
  rw [crc16_append, crc16_append]
  intro he
  have hfold : crcFold v (crc16 acc p) = crcFold v' (crc16 acc p) := crc16_injective_acc q he
  exact h (crcFold_injective_byte _ hfold)

/-- Settles O25: the type is the first byte folded, a payload byte one with the type, the length and the payload before it in front. -/
theorem oneByteChangeAltersTheChecksum : Obligations.OneByteChangeAltersTheChecksum := by
  refine ⟨fun t t' p h => crc16_ne_of_byte_ne h seed [] _, fun t p q v v' h => ?_⟩
  have hne := crc16_ne_of_byte_ne h seed ([t, BitVec.ofNat 8 (p ++ v :: q).length] ++ p) q
  simpa [frameChecksum] using hne

/-! ### CRC_FOLD (R86, R103) -/

/-- Settles O20. -/
theorem crcFoldPresentsTheFold : Obligations.CrcFoldPresentsTheFold := fun acc data s => ⟨_, execCrcFold_eq acc data s, rfl, rfl, rfl⟩

/-- The state with other values in the two fields in which observers see an event: the response port and the events so far. -/
def State.observed (r : Option Acc) (es : List Event) (s : State) : State := { s with rsp := r, events := es }

/-- The answer with those fields replaced in its next state. -/
def observedResult (r : Option Acc) (es : List Event) : Result → Result
  | .next t => .next (t.observed r es)
  | .fault f => .fault f
  | .refused f => .refused f

section
variable (r : Option Acc) (es : List Event) (b : Byte) (s : State)

@[simp] theorem observed_blk : (s.observed r es).blk = s.blk := rfl
@[simp] theorem observed_maxPayload : (s.observed r es).maxPayload = s.maxPayload := rfl
@[simp] theorem hasOffset_observed (off : Nat) : (s.observed r es).hasOffset off = s.hasOffset off := rfl
@[simp] theorem memWrite_observed (a : Nat) (v : Byte) : (s.observed r es).memWrite a v = (s.memWrite a v).observed r es := rfl
@[simp] theorem setCnt_observed (c : Byte) : (s.observed r es).setCnt c = (s.setCnt c).observed r es := rfl

@[simp] theorem complete_observed : (s.observed r es).complete = s.complete.observed r es := by
  obtain ⟨h, he⟩ | ⟨h, he⟩ := complete_cases s <;> rw [he]
  · exact if_pos h
  · exact if_neg h

theorem feedEmpty_observed : feedEmpty b (s.observed r es) = observedResult r es (feedEmpty b s) := by
  unfold feedEmpty
  split <;> rfl

theorem feedGotType_observed : feedGotType b (s.observed r es) = observedResult r es (feedGotType b s) := by
  unfold feedGotType
  rw [observed_maxPayload]
  split <;> rfl

theorem feedGotChecksumLo_observed : feedGotChecksumLo b (s.observed r es) = observedResult r es (feedGotChecksumLo b s) := by
  simp only [feedGotChecksumLo, memWrite_observed, observed_blk, complete_observed]
  split <;> rfl

theorem feedReceivingPayload_observed : feedReceivingPayload b (s.observed r es) = observedResult r es (feedReceivingPayload b s) := by
  simp only [feedReceivingPayload, hasOffset_observed, memWrite_observed, setCnt_observed, observed_blk, complete_observed]
  split
  · split <;> rfl
  · rfl

/-- FEED_BYTE neither reads nor writes the two fields. -/
theorem execFeedByte_observed : execFeedByte b (s.observed r es) = observedResult r es (execFeedByte b s) := by
  unfold execFeedByte
  rw [observed_blk]
  split
  · cases s.blk.pstate with
    | empty => exact feedEmpty_observed r es b s
    | gotStart => rfl
    | gotType => exact feedGotType_observed r es b s
    | gotLength => rfl
    | gotChecksumLo => exact feedGotChecksumLo_observed r es b s
    | receivingPayload => exact feedReceivingPayload_observed r es b s
    | gotComplete => exact feedEmpty_observed r es b s
    | code7 => rfl
  · rfl

end

/-- Settles O21: CRC_FOLD changes only the two fields that FEED_BYTE neither reads nor writes. -/
theorem crcFoldDoesNotDisturbParsing : Obligations.CrcFoldDoesNotDisturbParsing := by
  intro acc data b s u t hu ht
  have hobs : u = s.observed (some (crcFold data acc)) (s.events ++ [.crcResult (crcFold data acc)]) := by
    cases hu
    rfl
  have hfed : exec (.feedByte b) u = observedResult _ _ (exec (.feedByte b) s) := hobs ▸ execFeedByte_observed _ _ b s
  rw [ht] at hfed
  exact ⟨_, hfed, rfl⟩

end Sys2Proof.Machine
end

section
/-! SUPPORT. The receiver (41_receiver.md): the transition table row by row, the feed of a byte sequence, the ports under an always ready sink,
and the bytes of a frame as they arrive. With them the statements of 41_receiver.md are settled. -/

namespace Sys2Proof.Machine

/-! ### The transition table, row by row (R120 to R129) -/

section
variable {s : State} (b : Byte)

theorem execFeedByte_of_uninitialized (hi : s.blk.initd = false) : execFeedByte b s = .next (s.raiseFault .notInitialized) := by
  simp [execFeedByte, hi]

theorem feedEmpty_marker (s : State) :
    feedEmpty startMarker s = .next ((s.memWrite sopOffset startMarker).setPState .gotStart) := if_pos rfl

theorem feedEmpty_of_ne {b : Byte} (hb : b ≠ startMarker) (s : State) : feedEmpty b s = .next s := if_neg hb

section
variable (hi : s.blk.initd = true)
include hi

theorem execFeedByte_of_empty (hp : s.blk.pstate = .empty) : execFeedByte b s = feedEmpty b s := by
  simp [execFeedByte, hi, hp]

theorem execFeedByte_of_gotStart (hp : s.blk.pstate = .gotStart) :
    execFeedByte b s = .next ((s.memWrite typeOffset b).setPState .gotType) := by
  simp [execFeedByte, hi, hp, feedGotStart]

theorem execFeedByte_of_gotType (hp : s.blk.pstate = .gotType) : execFeedByte b s = feedGotType b s := by
  simp [execFeedByte, hi, hp]

theorem execFeedByte_of_gotLength (hp : s.blk.pstate = .gotLength) :
    execFeedByte b s = .next ((s.memWrite ckloOffset b).setPState .gotChecksumLo) := by
  simp [execFeedByte, hi, hp, feedGotLength]

theorem execFeedByte_of_gotComplete (hp : s.blk.pstate = .gotComplete) : execFeedByte b s = feedEmpty b s := by
  simp [execFeedByte, hi, hp, feedGotComplete]

/-- GOT_CHECKSUM_LO: the byte goes to CKHI, and LEN, which it leaves alone, says whether the frame is complete (R127). -/
theorem execFeedByte_of_gotChecksumLo (hwf : s.blk.mem.wf = true) (hp : s.blk.pstate = .gotChecksumLo) :
    execFeedByte b s = .next (if s.blk.len = 0 then (s.memWrite ckhiOffset b).complete
      else (s.memWrite ckhiOffset b).setPState .receivingPayload) := by
  have hrow : execFeedByte b s = feedGotChecksumLo b s := by simp [execFeedByte, hi, hp]
  rw [hrow, feedGotChecksumLo, len_memWrite_of_ne hwf b (by decide)]
  split <;> rfl

end

/-- The state with `b` stored as PAYLOAD[CNT] and CNT one more (R128). -/
def State.storePayloadByte (s : State) (b : Byte) : State := (s.memWrite (payloadOffset s.blk.cnt.toNat) b).setCnt (s.blk.cnt + 1)

theorem storePayloadByte_storesByte (hwf : s.blk.mem.wf = true) :
    storesByte s (s.storePayloadByte b) (payloadOffset s.blk.cnt.toNat) b :=
  memWrite_storesByte hwf _ b

/-- Below LEN the increment of CNT does not wrap. -/
theorem storePayloadByte_cnt_toNat (hlt : s.blk.cnt < s.blk.len) : (s.storePayloadByte b).blk.cnt.toNat = s.blk.cnt.toNat + 1 := by
  show (s.blk.cnt + 1).toNat = _
  bv_omega

/-- RECEIVING_PAYLOAD: the byte is stored, and the incremented CNT says whether the frame is complete (R128). -/
theorem execFeedByte_of_receivingPayload (hwf : s.blk.mem.wf = true) (hi : s.blk.initd = true)
    (hp : s.blk.pstate = .receivingPayload) (hlt : s.blk.cnt < s.blk.len) (hle : s.blk.len ≤ s.maxPayload) :
    execFeedByte b s = .next (if s.blk.cnt.toNat + 1 = s.blk.len.toNat then (s.storePayloadByte b).complete
      else s.storePayloadByte b) := by
  have hlen : (s.storePayloadByte b).blk.len = s.blk.len := len_memWrite_of_ne hwf b (payloadOffset_ne (by decide) _).symm
  have hlast : (s.storePayloadByte b).blk.cnt = (s.storePayloadByte b).blk.len ↔ s.blk.cnt.toNat + 1 = s.blk.len.toNat := by
    rw [hlen, ← BitVec.toNat_inj, storePayloadByte_cnt_toNat b hlt]
  rw [execFeedByte_of_receiving b hi hp, feedReceivingPayload, if_pos (hasOffset_payload hlt hle)]
  refine Eq.trans (if_congr hlast rfl rfl) ?_
  split <;> rfl

end

/-! ### The statements about single rows -/

/-- A row that stores its byte and goes to another parse state changes nothing else. -/
theorem memWrite_setPState_row {s : State} (hwf : s.blk.mem.wf = true) (a : Nat) (b : Byte) (p : PState) :
    ∃ t, Host.Outcome.next ((s.memWrite a b).setPState p) = (.next t : Result) ∧ t.blk.pstate = p ∧ storesByte s t a b ∧
      t.blk.cnt = s.blk.cnt ∧ sameStatus s t ∧ sameOutside s t :=
  ⟨_, rfl, rfl, memWrite_storesByte hwf a b, rfl, ⟨rfl, rfl, rfl, rfl⟩, ⟨rfl, rfl, rfl, rfl, rfl, rfl, rfl⟩⟩

/-- Settles O27. -/
theorem feedByteBeforeInitFaults : Obligations.FeedByteBeforeInitFaults :=
  fun b _ hi => ⟨_, execFeedByte_of_uninitialized b hi, rfl, rfl⟩

/-- Settles O28. -/
theorem emptyStartsAFrameOnTheMarker : Obligations.EmptyStartsAFrameOnTheMarker := by
  intro s hwf hi hp
  rw [exec, execFeedByte_of_empty _ hi hp, feedEmpty_marker]
  exact memWrite_setPState_row hwf _ _ _

/-- Settles O29. -/
theorem emptyIgnoresOtherBytes : Obligations.EmptyIgnoresOtherBytes :=
  fun b s hi hp hb => (execFeedByte_of_empty b hi hp).trans (feedEmpty_of_ne hb s)

/-- Settles O30. -/
theorem gotStartStoresTheType : Obligations.GotStartStoresTheType := by
  intro b s hwf hi hp
  rw [exec, execFeedByte_of_gotStart b hi hp]
  exact memWrite_setPState_row hwf _ _ _

/-- Settles O31. -/
theorem gotTypeStoresAValidLength : Obligations.GotTypeStoresAValidLength := by
  intro b s hwf hi hp hle
  have hrow : feedGotType b s = .next (((s.memWrite lenOffset b).setCnt 0).setPState .gotLength) := if_pos hle
  exact ⟨_, (execFeedByte_of_gotType b hi hp).trans hrow, rfl, memWrite_storesByte hwf _ b, rfl, ⟨rfl, rfl, rfl, rfl⟩,
    ⟨rfl, rfl, rfl, rfl, rfl, rfl, rfl⟩⟩

/-- Settles O32. -/
theorem gotTypeDiscardsALongLength : Obligations.GotTypeDiscardsALongLength := by
  intro b s hi hp hlt
  have hrow : feedGotType b s = .next s.clear := if_neg (Nat.not_le.2 hlt)
  exact ⟨_, (execFeedByte_of_gotType b hi hp).trans hrow, cleared_clear s, ⟨rfl, rfl, rfl, rfl⟩,
    ⟨rfl, rfl, rfl, rfl, rfl, rfl, rfl⟩⟩

/-- Settles O33. -/
theorem gotLengthStoresTheChecksumLowByte : Obligations.GotLengthStoresTheChecksumLowByte := by
  intro b s hwf hi hp
  rw [exec, execFeedByte_of_gotLength b hi hp]
  exact memWrite_setPState_row hwf _ _ _

/-- Settles O36: the row is that of EMPTY. -/
theorem gotCompleteAppliesTheEmptyRows : Obligations.GotCompleteAppliesTheEmptyRows := by
  intro b s hwf hi hp
  rw [exec, execFeedByte_of_gotComplete b hi hp]
  refine ⟨fun hb => feedEmpty_of_ne hb s, ?_⟩
  rintro rfl
  rw [feedEmpty_marker]
  exact memWrite_setPState_row hwf _ _ _

/-! ### A row that may complete the frame (R127, R128, R130 to R133) -/

/-- Storing CKHI leaves the fields of the verification, so a frame with no payload is verified over its type and the length 0. -/
theorem complete_iff_of_ckhi {s : State} (hwf : s.blk.mem.wf = true) (b : Byte) (h0 : s.blk.len = 0) :
    (s.memWrite ckhiOffset b).blk.calc = (s.memWrite ckhiOffset b).blk.ck ↔ crc16 seed [s.blk.typ, 0] = b ++ s.blk.cklo := by
  have hread := memWrite_storesByte hwf ckhiOffset b
  have htyp : (s.memWrite ckhiOffset b).blk.typ = s.blk.typ := hread typeOffset
  have hlen : (s.memWrite ckhiOffset b).blk.len = 0 := (hread lenOffset).trans h0
  have hlo : (s.memWrite ckhiOffset b).blk.cklo = s.blk.cklo := hread ckloOffset
  have hhi : (s.memWrite ckhiOffset b).blk.ckhi = b := hread ckhiOffset
  simp only [Block.calc, Block.ck, htyp, hlen, hlo, hhi]
  rfl

/-- The last payload byte joins those received before, which with the header's bytes stay as they are. -/
theorem complete_iff_of_payload {s : State} (hwf : s.blk.mem.wf = true) (b : Byte) (hlast : s.blk.cnt.toNat + 1 = s.blk.len.toNat) :
    (s.storePayloadByte b).blk.calc = (s.storePayloadByte b).blk.ck ↔
      crc16 seed ([s.blk.typ, s.blk.len] ++ s.blk.payload s.blk.cnt.toNat ++ [b]) = s.blk.ck := by
  have hread := storePayloadByte_storesByte b hwf
  have hheader {a : Nat} (ha : a < headerSize) : (s.storePayloadByte b).memRead a = s.memRead a :=
    (hread a).trans (if_neg (payloadOffset_ne ha _).symm)
  have htyp : (s.storePayloadByte b).blk.typ = s.blk.typ := hheader (a := typeOffset) (by decide)
  have hlen : (s.storePayloadByte b).blk.len = s.blk.len := hheader (a := lenOffset) (by decide)
  have hlo : (s.storePayloadByte b).blk.cklo = s.blk.cklo := hheader (a := ckloOffset) (by decide)
  have hhi : (s.storePayloadByte b).blk.ckhi = s.blk.ckhi := hheader (a := ckhiOffset) (by decide)
  have hbyte (i : Nat) : (s.storePayloadByte b).blk.payloadByte i = if i = s.blk.cnt.toNat then b else s.blk.payloadByte i :=
    (hread (payloadOffset i)).trans (if_congr (by simp [payloadOffset]) rfl rfl)
  have hpay : (s.storePayloadByte b).blk.payload s.blk.len.toNat = s.blk.payload s.blk.cnt.toNat ++ [b] := by
    rw [← hlast, Block.payload, List.range_succ, List.map_append, Block.payload]
    congr 1
    · refine List.map_congr_left fun i hi => ?_
      rw [hbyte, if_neg (List.mem_range.1 hi).ne]
    · simp [hbyte]
  rw [Block.calc, Block.ck, htyp, hlen, hlo, hhi, hpay, List.append_assoc, Block.ck]

/-- Settles O34: the high byte stored, LEN = 0 sends the frame to its verification. -/
theorem gotChecksumLoStoresHighOrCompletes : Obligations.GotChecksumLoStoresHighOrCompletes := by
  intro b s hwf hi hp
  have hstored := memWrite_storesByte hwf ckhiOffset b
  rw [exec, execFeedByte_of_gotChecksumLo b hi hwf hp]
  refine ⟨_, rfl, ?_⟩
  by_cases h0 : s.blk.len = 0
  · have hverified := complete_iff_of_ckhi hwf b h0
    rw [if_pos h0]
    refine ⟨complete_sameOutside ⟨rfl, rfl, rfl, rfl, rfl, rfl, rfl⟩, ?_⟩
    rcases complete_cases (s.memWrite ckhiOffset b) with ⟨hck, he⟩ | ⟨hck, he⟩ <;> rw [he]
    · exact ⟨rfl, rfl, rfl, absurd h0, fun _ _ => ⟨rfl, rfl, hstored, rfl⟩, fun _ hne => absurd (hverified.1 hck) hne⟩
    · exact ⟨rfl, rfl, rfl, absurd h0, fun _ heq => absurd (hverified.2 heq) hck, fun _ _ => ⟨cleared_clear _, rfl⟩⟩
  · rw [if_neg h0]
    exact ⟨⟨rfl, rfl, rfl, rfl, rfl, rfl, rfl⟩, rfl, rfl, rfl, fun _ => ⟨rfl, hstored, rfl, rfl⟩, fun h => absurd h h0,
      fun h => absurd h h0⟩

/-- Settles O35: the payload byte stored, an incremented CNT equal to LEN sends the frame to its verification. -/
theorem receivingStoresPayloadAndCompletes : Obligations.ReceivingStoresPayloadAndCompletes := by
  intro b s hwf hi hp hlt hle
  have hstored := storePayloadByte_storesByte b hwf
  have hcnt := storePayloadByte_cnt_toNat b hlt
  rw [exec, execFeedByte_of_receivingPayload b hwf hi hp hlt hle]
  refine ⟨_, rfl, ?_⟩
  by_cases hlast : s.blk.cnt.toNat + 1 = s.blk.len.toNat
  · have hmore : ¬ s.blk.cnt.toNat + 1 < s.blk.len.toNat := hlast.not_lt
    have hverified := complete_iff_of_payload hwf b hlast
    rw [if_pos hlast]
    refine ⟨complete_sameOutside ⟨rfl, rfl, rfl, rfl, rfl, rfl, rfl⟩, ?_⟩
    rcases complete_cases (s.storePayloadByte b) with ⟨hck, he⟩ | ⟨hck, he⟩ <;> rw [he]
    · exact ⟨rfl, rfl, rfl, fun h => absurd h hmore,
        fun _ _ => ⟨rfl, rfl, hstored, BitVec.eq_of_toNat_eq (hcnt.trans hlast)⟩, fun _ hne => absurd (hverified.1 hck) hne⟩
    · exact ⟨rfl, rfl, rfl, fun h => absurd h hmore, fun _ heq => absurd (hverified.2 heq) hck, fun _ _ => ⟨cleared_clear _, rfl⟩⟩
  · rw [if_neg hlast]
    exact ⟨⟨rfl, rfl, rfl, rfl, rfl, rfl, rfl⟩, rfl, rfl, rfl, fun _ => ⟨hp, hstored, hcnt, rfl⟩, fun h => absurd h hlast,
      fun h => absurd h hlast⟩

/-! ### The feed of a byte sequence (R136, R137) -/

section
variable {s u : State} {b : Byte}

/-- The atomic feed is FEED_BYTE, and TAKE after a byte that presents a delivery. -/
theorem feed_cases (h : feed b s = .next u) :
    ∃ s1, execFeedByte b s = .next s1 ∧ (s1.blk.dlvPend = false ∧ u = s1 ∨ s1.blk.dlvPend = true ∧ take s1 = .next u) := by
  unfold feed at h
  split at h
  · rename_i s1 h1
    refine ⟨s1, h1, ?_⟩
    split at h <;> rename_i hd
    · exact .inr ⟨hd, h⟩
    · cases h
      exact .inl ⟨by simpa using hd, rfl⟩
  · rename_i hstop
    exact absurd h (hstop u)

theorem feed_of_not_pending {s1 : State} (h : execFeedByte b s = .next s1) (hd : s1.blk.dlvPend = false) : feed b s = .next s1 := by
  simp [feed, h, hd]

theorem feed_of_pending {s1 : State} (h : execFeedByte b s = .next s1) (hd : s1.blk.dlvPend = true) : feed b s = take s1 := by
  simp [feed, h, hd]

theorem feedChunk_cons {bs : List Byte} (h : feed b s = .next u) : feedChunk (b :: bs) s = feedChunk bs u := by
  simp [feedChunk, h]

theorem feedChunk_singleton (b : Byte) (s : State) : feedChunk [b] s = feed b s := by
  cases h : feed b s <;> simp [feedChunk, h]

end

/-- Settles O52, by induction on the first chunk. -/
theorem chunkBoundariesDoNotMatter : Obligations.ChunkBoundariesDoNotMatter := by
  refine fun a b s => ⟨rfl, ?_⟩
  induction a generalizing s with
  | nil => rfl
  | cons x a ih => cases h : feed x s <;> simp [feedChunk, h, ih]

theorem feedChunk_append {a b : List Byte} {s u : State} (h : feedChunk a s = .next u) : feedChunk (a ++ b) s = feedChunk b u := by
  obtain ⟨-, happ⟩ := chunkBoundariesDoNotMatter a b s
  rw [happ, h]

/-- Settles O53, by induction on the sequence: a byte that is not the marker is ignored, and nothing is there to take. -/
theorem noiseFromEmptyIsIgnored : Obligations.NoiseFromEmptyIsIgnored := by
  intro bs s hi hp hd hbs
  induction bs with
  | nil => rfl
  | cons b bs ih =>
    obtain ⟨hb, hbs⟩ : startMarker ≠ b ∧ startMarker ∉ bs := by simpa using hbs
    have hignored : execFeedByte b s = .next s := (execFeedByte_of_empty b hi hp).trans (feedEmpty_of_ne hb.symm s)
    exact (feedChunk_cons (feed_of_not_pending hignored hd)).trans (ih hbs)

/-! ### The ports under an always ready sink (R137) -/

/-- The block and the parameter of `s` in the surroundings of `o`: its ports, schedule, events and draw counter. -/
def State.placedIn (s o : State) : State := { o with blk := s.blk, maxPayload := s.maxPayload }

/-- The answer with its next state placed in the surroundings of `o`. -/
def resultIn (o : State) : Result → Result
  | .next t => .next (t.placedIn o)
  | .fault f => .fault f
  | .refused f => .refused f

section
variable (o s : State) (b : Byte)

@[simp] theorem placedIn_blk : (s.placedIn o).blk = s.blk := rfl

theorem complete_placedIn : (s.placedIn o).complete = s.complete.placedIn o := by
  obtain ⟨h, he⟩ | ⟨h, he⟩ := complete_cases s <;> rw [he]
  · exact if_pos h
  · exact if_neg h

theorem feedEmpty_placedIn : feedEmpty b (s.placedIn o) = resultIn o (feedEmpty b s) := by
  unfold feedEmpty
  split <;> rfl

/-- The end of a row that may complete the frame. -/
theorem completeIf_placedIn (u v : State) (c : Prop) [Decidable c] :
    (if c then .next (u.placedIn o).complete else .next (v.placedIn o)) = resultIn o (if c then .next u.complete else .next v) := by
  split
  · exact congrArg _ (complete_placedIn o u)
  · rfl

/-- FEED_BYTE reads the block and the parameter, and writes the block. -/
theorem execFeedByte_placedIn : execFeedByte b (s.placedIn o) = resultIn o (execFeedByte b s) := by
  unfold execFeedByte
  rw [placedIn_blk]
  split
  · cases s.blk.pstate with
    | empty => exact feedEmpty_placedIn o s b
    | gotStart => rfl
    | gotType =>
      show (if b ≤ s.maxPayload then _ else _) = resultIn o (if b ≤ s.maxPayload then _ else _)
      split <;> rfl
    | gotLength => rfl
    | gotChecksumLo => exact completeIf_placedIn o (s.memWrite ckhiOffset b) ((s.memWrite ckhiOffset b).setPState .receivingPayload) _
    | receivingPayload =>
      show (if s.hasOffset (payloadOffset s.blk.cnt.toNat) then _ else _) =
        resultIn o (if s.hasOffset (payloadOffset s.blk.cnt.toNat) then _ else _)
      split
      · exact completeIf_placedIn o (s.storePayloadByte b) (s.storePayloadByte b)
          ((s.storePayloadByte b).blk.cnt = (s.storePayloadByte b).blk.len)
      · rfl
    | gotComplete => exact feedEmpty_placedIn o s b
    | code7 => rfl
  · rfl

end

/-- Two states with the same block, parameter and events: all that the atomic feed reads and writes. The ports, the schedule and the draw
counter may differ. -/
structure sameCore (s t : State) : Prop where
  blk : t.blk = s.blk
  maxPayload : t.maxPayload = s.maxPayload
  events : t.events = s.events

section
variable {s s1 s' t u : State} {b : Byte}

theorem execFeedByte_sameCore (hs : sameCore s s') (h : execFeedByte b s = .next t) :
    ∃ t', execFeedByte b s' = .next t' ∧ sameCore t t' := by
  have hplaced : s.placedIn s' = s' := by rw [State.placedIn, ← hs.blk, ← hs.maxPayload]
  have hexec := execFeedByte_placedIn s' s b
  rw [hplaced, h] at hexec
  exact ⟨_, hexec, rfl, rfl, hs.events.trans (execFeedByte_sameOutside h).events.symm⟩

theorem take_sameCore (hs : sameCore s s') (h : take s = .next t) : ∃ t', take s' = .next t' ∧ sameCore t t' := by
  obtain ⟨hfits, he⟩ | ⟨-, he⟩ := take_cases s <;> rw [he] at h <;> cases h
  rw [payloadInStorage_iff, ← hs.blk, ← hs.maxPayload] at hfits
  exact ⟨_, take_eq hfits, by simp [hs.blk], hs.maxPayload, by simp [hs.blk, hs.events]⟩

/-- Once initialized and free of faults the block stays so: FEED_BYTE's one fault is NOT_INITIALIZED (R180). -/
theorem execFeedByte_live (hs : s.Live) (h : execFeedByte b s = .next t) : t.Live := by
  have hcomplete {v : State} (hv : v.Live) : v.complete.Live := by
    obtain ⟨-, he⟩ | ⟨-, he⟩ := complete_cases v <;> rw [he] <;> exact hv
  rcases execFeedByte_cases h with ⟨hn, -⟩ | ⟨-, ⟨-, hE⟩ | ⟨-, rfl⟩ | ⟨-, hT⟩ | ⟨-, rfl⟩ | ⟨-, hnext⟩ | ⟨-, -, hnext⟩⟩
  · simp [hs.1] at hn
  · obtain ⟨-, rfl⟩ | ⟨-, rfl⟩ := hE <;> exact hs
  · exact hs
  · obtain ⟨-, rfl⟩ | ⟨-, rfl⟩ := hT <;> exact hs
  · exact hs
  · obtain ⟨-, rfl⟩ | ⟨-, rfl⟩ := hnext
    · exact hcomplete hs
    · exact hs
  · obtain ⟨-, rfl⟩ | ⟨-, rfl⟩ := hnext
    · exact hcomplete hs
    · exact hs

/-- After the atomic feed the block accepts the next byte: a delivery that it presented has been taken. -/
theorem feed_keeps_live (hs : s.Live) (h : feed b s = .next u) : u.Live ∧ u.blk.dlvPend = false := by
  obtain ⟨s1, h1, hu⟩ := feed_cases h
  have hlive := execFeedByte_live hs h1
  obtain ⟨hd, rfl⟩ | ⟨-, htake⟩ := hu
  · exact ⟨hlive, hd⟩
  · obtain rfl := eq_of_take htake
    exact ⟨hlive, rfl⟩

end

/-- HOST has the words `ws` on offer and nothing else, SINK is always ready, RESET is quiet and BLOCK makes the steps; the pins are `p`. -/
structure State.Streaming (p : Pins) (ws : List CmdWord) (q : State) : Prop where
  sched : q.sched = []
  pins : q.pins = p
  rst_low : q.pins.rst = false
  ready : q.pins.dlvReady = true
  host : q.host = ws

section
variable {s s1 q u : State} {b : Byte} {p : Pins} {ws : List CmdWord}

theorem State.Streaming.nextMove (hq : q.Streaming p ws) : q.nextMove = .block := by
  rw [State.nextMove, hq.sched, List.headD_nil]

theorem State.Streaming.congr {t : State} (hq : q.Streaming p ws) (hk : sameSurroundings q t) : t.Streaming p ws :=
  ⟨hk.sched.trans hq.sched, hk.pins.trans hq.pins, by rw [hk.pins, hq.rst_low], by rw [hk.pins, hq.ready], hk.host.trans hq.host⟩

theorem State.Streaming.beginStep (hq : q.Streaming p ws) : q.beginStep.Streaming p ws :=
  { hq with sched := by rw [State.beginStep_sched, hq.sched, List.tail_nil] }

theorem State.Streaming.consumeWord {w : CmdWord} (hq : q.Streaming p (w :: ws)) : q.consumeWord.Streaming p ws :=
  { hq with host := by rw [State.consumeWord_host, hq.host, List.tail_cons] }

/-- BLOCK's step accepts the FEED_BYTE on offer. -/
theorem step_feedByte_of_streaming (hq : q.Streaming p (encode (.feedByte b) :: ws)) (hsq : sameCore s q)
    (hrdy : s.blk.cmdReady = true) (h : execFeedByte b s = .next s1) :
    ∃ q1, step q = .next q1 ∧ sameCore s1 q1 ∧ q1.Streaming p ws := by
  obtain ⟨q1, hexec, hcore⟩ := execFeedByte_sameCore (s' := q.beginStep.consumeWord) ⟨hsq.blk, hsq.maxPayload, hsq.events⟩ h
  have hstep := step_of_accepted hq.nextMove hq.rst_low (hsq.blk ▸ hrdy) hq.host
  rw [performWord_of_decode (decode_encode _)] at hstep
  exact ⟨q1, hstep.trans hexec, hcore, hq.beginStep.consumeWord.congr (execFeedByte_sameOutside hexec).surroundings⟩

/-- BLOCK's step takes the pending delivery. -/
theorem step_take_of_streaming (hq : q.Streaming p ws) (hsq : sameCore s q) (hd : s.blk.dlvPend = true) (h : take s = .next u) :
    ∃ t, step q = .next t ∧ sameCore u t ∧ t.Streaming p ws := by
  obtain ⟨t, htake, hcore⟩ := take_sameCore (s' := q.beginStep) ⟨hsq.blk, hsq.maxPayload, hsq.events⟩ h
  have henabled : q.beginStep.takeEnabled = true := (takeEnabled_iff _).2 ⟨hsq.blk ▸ hd, hq.ready⟩
  have hstep : step q = take q.beginStep :=
    calc step q = blockStep q.beginStep := step_of_nextMove hq.nextMove
      _ = q.beginStep.transact := unlessReset_low (s := q.beginStep) hq.rst_low _
      _ = take q.beginStep := if_pos henabled
  exact ⟨t, hstep.trans htake, hcore, hq.beginStep.congr (take_sameSurroundings htake)⟩

/-- One atomic feed at the ports: one step, and one more where the byte presents a delivery. -/
theorem runsTo_feed_of_streaming (hq : q.Streaming p (encode (.feedByte b) :: ws)) (hsq : sameCore s q)
    (hrdy : s.blk.cmdReady = true) (h : feed b s = .next u) :
    ∃ s1 t, execFeedByte b s = .next s1 ∧ runsTo (if s1.blk.dlvPend then 2 else 1) q t ∧ sameCore u t ∧ t.Streaming p ws := by
  obtain ⟨s1, h1, hu⟩ := feed_cases h
  obtain ⟨q1, hstep, hcore1, hq1⟩ := step_feedByte_of_streaming hq hsq hrdy h1
  obtain ⟨hd, rfl⟩ | ⟨hd, htake⟩ := hu
  · refine ⟨u, q1, h1, ?_, hcore1, hq1⟩
    rw [hd]
    exact (runsTo_succ 0 q q1).2 ⟨q1, hstep, (runsTo_zero q1 q1).2 rfl⟩
  · obtain ⟨t, hstep', hcore, ht⟩ := step_take_of_streaming hq1 hcore1 hd htake
    refine ⟨s1, t, h1, ?_, hcore, ht⟩
    rw [hd]
    exact (runsTo_succ 1 q t).2 ⟨q1, hstep, (runsTo_succ 0 q1 t).2 ⟨t, hstep', (runsTo_zero t t).2 rfl⟩⟩

end

/-- Settles O54. -/
theorem atomicFeedIsFeedThenTake : Obligations.AtomicFeedIsFeedThenTake := by
  intro s u b ws hsched hrst hready hpend hfault hhost h
  obtain ⟨s1, t, h1, hrun, hcore, ht⟩ := runsTo_feed_of_streaming ⟨hsched, rfl, hrst, hready, hhost⟩ ⟨rfl, rfl, rfl⟩
    ((cmdReady_iff _).2 ⟨hpend, hfault⟩) h
  exact ⟨s1, t, h1, hrun, hcore.blk, hcore.events, ht.host, ht.sched, ht.pins⟩

/-! ### A byte sequence at the ports -/

theorem runsTo_add {j k : Nat} {s t u : State} (hj : runsTo j s t) (hk : runsTo k t u) : runsTo (j + k) s u := by
  induction j generalizing s with
  | zero =>
    obtain rfl := (runsTo_zero s t).1 hj
    rwa [Nat.zero_add]
  | succ j ih =>
    obtain ⟨v, hstep, hrun⟩ := (runsTo_succ j s t).1 hj
    rw [Nat.succ_add]
    exact (runsTo_succ (j + k) s u).2 ⟨v, hstep, ih hrun⟩

/-- The atomic feed emits one event where the byte presents a delivery, else none. -/
theorem feed_events_length {s s1 u : State} {b : Byte} (h1 : execFeedByte b s = .next s1) (h : feed b s = .next u) :
    u.events.length = s.events.length + if s1.blk.dlvPend then 1 else 0 := by
  have hevents := (execFeedByte_sameOutside h1).events
  cases hd : s1.blk.dlvPend
  · rw [feed_of_not_pending h1 hd] at h
    cases h
    rw [hevents]
    rfl
  · rw [feed_of_pending h1 hd] at h
    obtain rfl := eq_of_take h
    simp [hevents]

/-- Feeding a sequence is what BLOCK does with its words, in a step for each byte and one for each delivery, which are the events that the
feed emits. -/
theorem runsTo_feedChunk_of_streaming {p : Pins} {ws : List CmdWord} {bs : List Byte} {s q u : State} (hs : s.Live)
    (hd : s.blk.dlvPend = false) (hq : q.Streaming p (feedWords bs ++ ws)) (hsq : sameCore s q) (h : feedChunk bs s = .next u) :
    ∃ k t, runsTo k q t ∧ k + s.events.length = bs.length + u.events.length ∧ sameCore u t ∧ t.Streaming p ws := by
  induction bs generalizing s q with
  | nil =>
    cases h
    exact ⟨0, q, (runsTo_zero q q).2 rfl, by simp, hsq, hq⟩
  | cons b bs ih =>
    cases hfeed : feed b s with
    | fault r => simp [feedChunk, hfeed] at h
    | refused r => simp [feedChunk, hfeed] at h
    | next v =>
      rw [feedChunk_cons hfeed] at h
      obtain ⟨s1, q1, h1, hrun, hvq, hq1⟩ := runsTo_feed_of_streaming hq hsq ((cmdReady_iff _).2 ⟨hd, hs.2⟩) hfeed
      obtain ⟨hv, hvd⟩ := feed_keeps_live hs hfeed
      obtain ⟨k, t, hrest, hk, hut, ht⟩ := ih hv hvd hq1 hvq h
      refine ⟨_, t, runsTo_add hrun hrest, ?_, hut, ht⟩
      rw [feed_events_length h1 hfeed] at hk
      have hsteps : (if s1.blk.dlvPend then 2 else 1) = 1 + if s1.blk.dlvPend then 1 else 0 := by split <;> rfl
      rw [List.length_cons]
      omega

/-! ### The bytes of a frame as they arrive (R138) -/

/-- The parse state after `n` bytes of a frame, while more are to come (R21). -/
def parseStateAfter : Nat → PState
  | 0 => .empty
  | 1 => .gotStart
  | 2 => .gotType
  | 3 => .gotLength
  | 4 => .gotChecksumLo
  | _ + 5 => .receivingPayload

/-- From the state `o` the receiver has taken in the bytes `pre` of a frame and nothing else has changed: each byte stands at the storage
offset of its place in the frame, since R50 lays the packet out as R73 sends it. -/
structure State.Parsed (o : State) (pre : List Byte) (s : State) : Prop where
  mem_wf : s.blk.mem.wf = true
  bytes : ∀ off, s.memRead off = pre.getD off 0
  pstate : s.blk.pstate = parseStateAfter pre.length
  cnt : s.blk.cnt.toNat = pre.length - headerSize
  status : sameStatus o s
  outside : sameOutside o s

theorem getD_concat (pre : List Byte) (b : Byte) (i : Nat) : (pre ++ [b]).getD i 0 = if i = pre.length then b else pre.getD i 0 := by
  rcases Nat.lt_trichotomy i pre.length with h | h | h
  · rw [if_neg h.ne, List.getD_append _ _ _ _ h]
  · simp [h]
  · rw [if_neg h.ne', List.getD_eq_default _ _ h.le, List.getD_eq_default]
    simpa using h

/-- In EMPTY no delivery is pending (R35). -/
theorem State.Inv.not_pending_of_empty {s : State} (h : s.Inv) (hi : s.blk.initd = true) (hp : s.blk.pstate = .empty) :
    s.blk.dlvPend = false := by
  by_contra hd
  have hcomplete := (h.parser hi).complete_iff_pending.2 (by simpa using hd)
  simp [hp] at hcomplete

/-- A cleared receiver has taken in no byte. -/
theorem parsed_nil {s : State} (h : s.Inv) (hi : s.blk.initd = true) (hp : s.blk.pstate = .empty) : s.Parsed [] s := by
  obtain ⟨hcnt, hzero⟩ := (h.parser hi).empty_clear hp
  exact ⟨h.mem_wf, hzero, hp, by simp [hcnt], .refl s, .refl s⟩

/-- The fields of a frame, by their places in it (R74). -/
structure FrameFields (M : Byte) (f : List Byte) : Prop where
  marker : f.getD 0 0 = startMarker
  len_le : (f.getD 2 0).toNat ≤ M.toNat
  length : f.length = 5 + (f.getD 2 0).toNat
  checksum : (f.getD 4 0 ++ f.getD 3 0 : BitVec (8 + 8)) = crc16 seed ([f.getD 1 0, f.getD 2 0] ++ f.drop 5)

section
variable {M t : Byte} {p f : List Byte} (h : frameBytes M t p = some f)
include h

theorem frameBytes_typ : f.getD 1 0 = t := by
  unfold frameBytes at h
  split at h <;> cases h
  rfl

theorem frameBytes_len : f.getD 2 0 = BitVec.ofNat 8 p.length := by
  unfold frameBytes at h
  split at h <;> cases h
  rfl

theorem frameBytes_payload : f.drop 5 = p := by
  unfold frameBytes at h
  split at h <;> cases h
  rfl

theorem frameFields_of_frameBytes : FrameFields M f := by
  obtain ⟨hfields, hiff⟩ := wellFormedFramesAreFrameBytes M f
  rw [frameBytes_typ h, frameBytes_payload h] at hiff
  obtain ⟨hmarker, hle, hlen, hck⟩ := hfields.1 (hiff.2 h)
  exact ⟨hmarker, hle, hlen, hck⟩

end

section
variable {o s : State} {pre rest : List Byte} {b : Byte}

/-- The next byte stored at its place, with the parse state and CNT that the count of bytes gives. -/
theorem State.Parsed.store (h : o.Parsed pre s) (b : Byte) (c : Byte) (q : PState) (hc : c.toNat = pre.length + 1 - headerSize)
    (hq : q = parseStateAfter (pre.length + 1)) : o.Parsed (pre ++ [b]) (((s.memWrite pre.length b).setCnt c).setPState q) where
  mem_wf := Memory.wf_write _ b h.mem_wf
  bytes off := by
    rw [getD_concat, ← h.bytes off]
    exact memWrite_storesByte h.mem_wf _ b off
  pstate := by rw [List.length_append]; exact hq
  cnt := by rw [List.length_append]; exact hc
  status := { h.status with }
  outside := { h.outside with }

theorem setPState_self {q : PState} (hp : s.blk.pstate = q) : s.setPState q = s := by
  subst hp
  rfl

/-- A field of the frame that has arrived already. -/
theorem State.Parsed.field (h : o.Parsed pre s) {i : Nat} (hi : i < pre.length) (rest : List Byte) :
    s.memRead i = (pre ++ rest).getD i 0 := by
  rw [h.bytes, List.getD_append _ _ _ _ hi]

/-- The next byte stands at the place that the count of bytes gives. -/
theorem getD_next (pre rest : List Byte) (b : Byte) : (pre ++ b :: rest).getD pre.length 0 = b := by simp

variable (h : o.Parsed pre s) (hi : s.blk.initd = true) (hf : FrameFields o.maxPayload (pre ++ b :: rest))
include h hi hf

/-- The marker, the type, the length and the checksum's low byte are stored (R121, R123, R124, R126). -/
theorem State.Parsed.execFeedByte_header (hn : pre.length < 4) :
    ∃ u, o.Parsed (pre ++ [b]) u ∧ execFeedByte b s = .next u := by
  have hp := h.pstate
  have hnext := getD_next pre rest b
  have hstore := h.store b
  have hcnt : s.blk.cnt.toNat = 0 := h.cnt.trans (by unfold headerSize; omega)
  interval_cases pre.length
  · obtain rfl : startMarker = b := hf.marker.symm.trans hnext
    exact ⟨_, hstore s.blk.cnt .gotStart hcnt rfl, (execFeedByte_of_empty _ hi hp).trans (feedEmpty_marker s)⟩
  · exact ⟨_, hstore s.blk.cnt .gotType hcnt rfl, execFeedByte_of_gotStart b hi hp⟩
  · have hle : b ≤ s.maxPayload := by
      rw [h.outside.maxPayload, ← hnext]
      exact hf.len_le
    exact ⟨_, hstore 0 .gotLength rfl rfl, (execFeedByte_of_gotType b hi hp).trans (if_pos hle)⟩
  · exact ⟨_, hstore s.blk.cnt .gotChecksumLo hcnt rfl, execFeedByte_of_gotLength b hi hp⟩

/-- The checksum's high byte is stored; it is the frame's last byte when LEN = 0 (R127). -/
theorem State.Parsed.execFeedByte_checksumHi (hn : pre.length = 4) :
    ∃ u, o.Parsed (pre ++ [b]) u ∧ execFeedByte b s = .next (if rest = [] then u.complete else u) := by
  have hp := h.pstate
  have hstore := h.store b s.blk.cnt .receivingPayload
  have hlen : s.blk.len = (pre ++ b :: rest).getD 2 0 := h.field (i := 2) (by omega) _
  have hlength := hf.length
  rw [← hlen, List.length_append, List.length_cons] at hlength
  have hlast : s.blk.len = 0 ↔ rest = [] := by
    rw [← List.length_eq_zero_iff, ← BitVec.toNat_inj]
    show s.blk.len.toNat = 0 ↔ _
    omega
  rw [hn] at hp hstore
  exact ⟨_, hstore (h.cnt.trans (by rw [hn]; rfl)) rfl,
    (execFeedByte_of_gotChecksumLo b hi h.mem_wf hp).trans (congrArg _ (if_congr hlast rfl rfl))⟩

/-- A payload byte is stored; it is the frame's last byte when CNT + 1 = LEN (R128). -/
theorem State.Parsed.execFeedByte_payload (hn : 5 ≤ pre.length) :
    ∃ u, o.Parsed (pre ++ [b]) u ∧ execFeedByte b s = .next (if rest = [] then u.complete else u) := by
  obtain ⟨n, hn⟩ := Nat.exists_eq_add_of_le' hn
  have hp : s.blk.pstate = .receivingPayload := by rw [h.pstate, hn]; rfl
  have hlen : s.blk.len = (pre ++ b :: rest).getD 2 0 := h.field (i := 2) (by omega) _
  have hlength := hf.length
  have hle : s.blk.len ≤ s.maxPayload := by
    rw [h.outside.maxPayload, hlen]
    exact hf.len_le
  rw [← hlen, List.length_append, List.length_cons] at hlength
  have hcnt : s.blk.cnt.toNat = n := by rw [h.cnt, hn]; rfl
  have hlt : s.blk.cnt < s.blk.len := by rw [BitVec.lt_def]; omega
  have hlast : s.blk.cnt.toNat + 1 = s.blk.len.toNat ↔ rest = [] := by
    rw [← List.length_eq_zero_iff]
    omega
  have hoff : pre.length = payloadOffset s.blk.cnt.toNat := by rw [hn, hcnt, payloadOffset, headerSize, Nat.add_comm]
  have hstored : ((s.memWrite pre.length b).setCnt (s.blk.cnt + 1)).setPState .receivingPayload = s.storePayloadByte b := by
    rw [hoff]
    exact setPState_self (s := s.storePayloadByte b) hp
  have hcnt' : (s.blk.cnt + 1).toNat = pre.length + 1 - headerSize :=
    (storePayloadByte_cnt_toNat b hlt).trans (by rw [hcnt, hn, headerSize]; omega)
  refine ⟨_, hstored ▸ h.store b (s.blk.cnt + 1) .receivingPayload hcnt' (by rw [hn]; rfl), ?_⟩
  rw [execFeedByte_of_receivingPayload b h.mem_wf hi hp hlt hle, if_congr hlast rfl rfl]

/-- One more byte of a frame is stored, and the last one also completes the frame. -/
theorem State.Parsed.execFeedByte_next :
    ∃ u, o.Parsed (pre ++ [b]) u ∧ execFeedByte b s = .next (if rest = [] then u.complete else u) := by
  rcases Nat.lt_trichotomy pre.length 4 with hn | hn | hn
  · obtain ⟨u, hu, hexec⟩ := h.execFeedByte_header hi hf hn
    have hrest : rest ≠ [] := by
      rintro rfl
      have hlength := hf.length
      simp at hlength
      omega
    exact ⟨u, hu, by rw [hexec, if_neg hrest]⟩
  · exact h.execFeedByte_checksumHi hi hf hn
  · exact h.execFeedByte_payload hi hf hn

end

/-- A whole frame in the storage is the record that the delivery needs, and its checksum matches (R87, R131). -/
theorem State.Parsed.complete_eq_present {o u : State} {f : List Byte} (h : o.Parsed f u) (hf : FrameFields o.maxPayload f) :
    u.blk.payload u.blk.len.toNat = f.drop 5 ∧ u.complete = u.present := by
  have hlen : u.blk.len = f.getD 2 0 := h.bytes 2
  have htyp : u.blk.typ = f.getD 1 0 := h.bytes 1
  have hck : u.blk.ck = (f.getD 4 0 ++ f.getD 3 0 : BitVec (8 + 8)) := congrArg₂ _ (h.bytes 4) (h.bytes 3)
  have hpay : u.blk.payload u.blk.len.toNat = f.drop 5 := by
    refine List.ext_getElem (by simp [Block.payload, hlen, hf.length]) fun i hi hi' => ?_
    have hbyte : u.blk.payloadByte i = f.getD (5 + i) 0 := h.bytes (5 + i)
    rw [List.length_drop] at hi'
    rw [List.getElem_drop, ← List.getD_eq_getElem f 0 (by omega), ← hbyte]
    simp [Block.payload]
  refine ⟨hpay, if_pos ?_⟩
  rw [Block.calc, hpay, htyp, hlen, hck, hf.checksum]

section
variable {o s : State} {f : List Byte}

/-- With bytes of the frame still to come, the bytes that arrive are stored and nothing is presented. -/
theorem State.Parsed.feedChunk_of_more {pre bs rest : List Byte} (h : o.Parsed pre s) (ho : o.Live) (hd : o.blk.dlvPend = false)
    (hf : FrameFields o.maxPayload (pre ++ bs ++ rest)) (hrest : rest ≠ []) :
    ∃ u, feedChunk bs s = .next u ∧ o.Parsed (pre ++ bs) u := by
  induction bs generalizing pre s with
  | nil => exact ⟨s, rfl, by rwa [List.append_nil]⟩
  | cons b bs ih =>
    rw [List.append_assoc, List.cons_append] at hf
    obtain ⟨v, hv, hexec⟩ := h.execFeedByte_next (h.status.initd.trans ho.1) hf
    rw [if_neg (by simp [hrest])] at hexec
    have hfeed : feed b s = .next v := feed_of_not_pending hexec (hv.status.dlvPend.trans hd)
    obtain ⟨u, hu, hparsed⟩ := ih hv (by simpa using hf)
    exact ⟨u, (feedChunk_cons hfeed).trans hu, by simpa using hparsed⟩

/-- The last byte completes the frame, which is presented and taken. -/
theorem State.Parsed.feed_last {pre : List Byte} {b : Byte} (h : o.Parsed pre s) (ho : o.Live)
    (hf : FrameFields o.maxPayload (pre ++ [b])) :
    ∃ u, o.Parsed (pre ++ [b]) u ∧ feed b s = .next (((u.present.emit (.delivery u.blk.delivery)).setDlvPend false).clear) := by
  obtain ⟨u, hu, hexec⟩ := h.execFeedByte_next (h.status.initd.trans ho.1) hf
  obtain ⟨-, hpresent⟩ := hu.complete_eq_present hf
  rw [if_pos rfl, hpresent] at hexec
  have hlen : u.blk.len ≤ u.maxPayload := by
    rw [hu.outside.maxPayload, show u.blk.len = _ from hu.bytes 2]
    exact hf.len_le
  exact ⟨u, hu, (feed_of_pending hexec rfl).trans (take_eq (s := u.present) hlen)⟩

end

/-- Settles O55: the frame's bytes but the last are stored one by one, and the last makes the record whole. -/
theorem roundTripDeliversTheFrameOnce : Obligations.RoundTripDeliversTheFrameOnce := by
  intro s T P f hinv hlive hp h
  have hf := frameFields_of_frameBytes h
  have hd := hinv.not_pending_of_empty hlive.1 hp
  obtain ⟨pre, b, rfl⟩ : ∃ pre b, f = pre ++ [b] := (List.eq_nil_or_concat' f).resolve_left fun hnil => by
    have := frameBytes_length h
    rw [hnil, List.length_nil] at this
    omega
  obtain ⟨v, hpre, (hv : s.Parsed pre v)⟩ := (parsed_nil hinv hlive.1 hp).feedChunk_of_more hlive hd hf (List.cons_ne_nil b [])
  obtain ⟨u, hu, hlast⟩ := hv.feed_last hlive hf
  obtain ⟨hpay, -⟩ := hu.complete_eq_present hf
  have hlen : ((pre ++ [b]).getD 2 0).toNat = P.length := by
    have := frameBytes_length h
    have := hf.length
    omega
  have hck : u.blk.ck = frameChecksum T P := by
    have hck : u.blk.ck = _ := congrArg₂ _ (hu.bytes 4) (hu.bytes 3)
    rw [hck, hf.checksum, frameBytes_typ h, frameBytes_len h, frameBytes_payload h, frameChecksum]
  refine ⟨⟨v, by rwa [List.dropLast_concat], hv.outside.events⟩, _, u.blk.delivery,
    (feedChunk_append hpre).trans ((feedChunk_singleton b v).trans hlast), ?_⟩
  exact ⟨congrArg (· ++ _) hu.outside.events, hu.status.ctx, (hu.bytes 0).trans hf.marker, (hu.bytes 1).trans (frameBytes_typ h),
    (congrArg _ (hu.bytes 2)).trans hlen, hck, hpay.trans (frameBytes_payload h), cleared_clear _,
    ⟨hu.status.initd.trans hlive.1, hu.status.fault.trans hlive.2⟩, hu.status.ctx⟩

theorem cleared.congr {s t : State} (h : cleared s) (hb : t.blk = s.blk) : cleared t where
  pstate := by rw [hb, h.pstate]
  cnt := by rw [hb, h.cnt]
  bytes off := by rw [State.memRead, hb]; exact h.bytes off

/-- Settles O56: the frame is fed at the ports, in a step for each byte and one for its delivery. -/
theorem roundTripThroughThePorts : Obligations.RoundTripThroughThePorts := by
  intro s T P f hinv hlive hp hsched hrst hready h hhost
  obtain ⟨-, u, d, hfeed, hevents, hctx, -, htyp, hlen, -, hpay, hcleared, -, -⟩ :=
    roundTripDeliversTheFrameOnce s T P f hinv hlive hp h
  obtain ⟨k, t, hrun, hk, hut, ht⟩ := runsTo_feedChunk_of_streaming (ws := []) hlive (hinv.not_pending_of_empty hlive.1 hp)
    ⟨hsched, rfl, hrst, hready, by rw [hhost, List.append_nil]⟩ ⟨rfl, rfl, rfl⟩ hfeed
  obtain rfl : k = f.length + 1 := by
    rw [hevents, List.length_append, List.length_singleton] at hk
    omega
  exact ⟨t, d, hrun, ht.host, hut.events.trans hevents, hctx, htyp, hlen, hpay, hcleared.congr hut.blk⟩

end Sys2Proof.Machine
end

section
/-! SUPPORT. The command and delivery ports (42_control.md): the step that takes a pending delivery, the step that holds the words on offer, and
the delivery port's levels. With them the statements of 42_control.md are settled. -/

namespace Sys2Proof.Machine

/-! ### A step that takes, and a step that holds -/

section
variable {s t : State}

/-- Where SINK takes in the coming step, SINK or BLOCK makes it. -/
theorem nextMove_of_readyInStep (h : s.readyInStep = true) : s.nextMove = .block ∨ ∃ r a, s.nextMove = .sink r a := by
  unfold State.readyInStep at h
  cases hm : s.nextMove with
  | block => exact .inl rfl
  | sink r a => exact .inr ⟨r, a, rfl⟩
  | host w => simp [hm] at h
  | reset l => simp [hm] at h

/-- With rst low and a delivery pending, the step in which SINK takes is TAKE in the driven state (R161). -/
theorem step_of_takes (hr : s.rstInStep = false) (hy : s.readyInStep = true) (hp : s.blk.dlvPend = true) : step s = take s.driven := by
  have hmove := nextMove_of_readyInStep hy
  have htake : s.driven.takeEnabled = true := by simp [takeEnabled_driven hmove, hy, hp]
  rw [step_low hr]
  rcases hmove with hm | ⟨r, a, hm⟩ <;> rw [hm] <;> exact if_pos htake

/-- The words on offer stay where SINK takes: HOST makes no step. -/
theorem driven_host_of_readyInStep (hy : s.readyInStep = true) : s.driven.host = s.host := by
  rcases s.driven_host with hh | ⟨w, hm, -⟩
  · exact hh
  · simp [State.readyInStep, hm] at hy

/-- While neither a TAKE nor a command is enabled, BLOCK waits (R165). -/
theorem transact_of_held (ht : s.takeEnabled = false) (hc : s.blk.cmdReady = false) : s.transact = .next s := by
  unfold State.transact
  cases s.host <;> simp [ht, hc]

/-- With cmd_ready = 0 and rst low, a step that takes nothing only drives (R165). -/
theorem step_of_held (hc : s.blk.cmdReady = false) (hr : s.rstInStep = false) (hn : s.blk.dlvPend = true → s.readyInStep = false) :
    step s = .next s.driven := by
  have hoff : (s.blk.dlvPend && s.readyInStep) = false := by cases hp : s.blk.dlvPend <;> simp [hn, hp]
  rw [step_low hr]
  cases hm : s.nextMove with
  | block => exact transact_of_held ((takeEnabled_driven (.inl hm)).trans hoff) (by rwa [s.driven_blk])
  | host w => rfl
  | sink r a => simp [State.takeIfEnabled, takeEnabled_driven (.inr ⟨r, a, hm⟩), hoff]
  | reset l => rfl

/-- The drive withdraws no word (R165). -/
theorem driven_host_grows (s : State) : ∃ more, s.driven.host = s.host ++ more := by
  rcases s.driven_host with hh | ⟨w, -, hh⟩
  · exact ⟨[], by simp [hh]⟩
  · exact ⟨[w], hh⟩

/-- While cmd_ready = 0 a step resets, takes, or only drives: none accepts a word. -/
theorem step_cases_of_not_ready (h : step s = .next t) (hc : s.blk.cmdReady = false) :
    (s.rstInStep = true ∧ t = s.driven.resetBlock) ∨
    (s.rstInStep = false ∧ (t = ((s.driven.emit (.delivery s.blk.delivery)).setDlvPend false).clear ∨ t = s.driven)) := by
  rcases step_cases h with hreset | ⟨hr, ⟨-, -, htake, -⟩ | ⟨-, hrdy, -⟩ | ⟨-, hidle⟩⟩
  · exact .inl hreset
  · exact .inr ⟨hr, .inl (by simpa using eq_of_take htake)⟩
  · simp [hc] at hrdy
  · exact .inr ⟨hr, .inr hidle⟩

/-- Without RESET a step keeps a recorded fault: no command is accepted, and neither TAKE nor the drive writes FAULT (R184, R185). -/
theorem step_fault_of_faulted (h : step s = .next t) (hf : s.blk.fault ≠ .none) (hr : s.rstInStep = false) :
    t.blk.fault = s.blk.fault := by
  have hc : s.blk.cmdReady = false := Bool.eq_false_iff.2 fun hrdy => hf ((cmdReady_iff _).1 hrdy).2
  rcases step_cases_of_not_ready h hc with ⟨hrst, -⟩ | ⟨-, rfl | rfl⟩
  · simp [hr] at hrst
  · simp
  · simp

end

/-- Settles O11: the step that holds is the drive alone, and RESET, TAKE and the drive withdraw no word. -/
theorem heldCommandChangesNothing : Obligations.HeldCommandChangesNothing := by
  refine fun s => ⟨cmdReady_iff _, fun hc => ⟨fun t h => ?_, fun hr hn => ?_⟩⟩
  · rcases step_cases_of_not_ready h hc with ⟨-, rfl⟩ | ⟨-, rfl | rfl⟩ <;> exact driven_host_grows s
  · exact ⟨s.driven, step_of_held hc hr hn, s.driven_blk, s.driven_events, s.driven_rsp⟩

/-- Settles O13: the step with rst = 1 is the reset of the driven state, and without it a recorded fault stays. -/
theorem resetEventOverridesAndResets : Obligations.ResetEventOverridesAndResets := by
  refine ⟨fun s hr => ?_, fun s t h hf hr => ?_⟩
  · exact ⟨_, step_reset hr, rfl, rfl, rfl, rfl, rfl, driven_host_grows s, s.driven_events, s.driven_rsp, s.driven_maxPayload⟩
  · rwa [step_fault_of_faulted h hf hr]

/-- Settles O15: the step is TAKE in the driven state, whose block and so whose record is that of the state before. -/
theorem takeEmitsTheRecordAndClears : Obligations.TakeEmitsTheRecordAndClears := by
  intro s hr hy hp hlen
  have hstep : step s = .next ((s.driven.emit (.delivery s.blk.delivery)).setDlvPend false).clear := by
    rw [step_of_takes hr hy hp, take_eq (by simpa using hlen), s.driven_blk]
  refine ⟨_, s.blk.delivery, hstep, by simp, rfl, rfl, rfl, rfl, rfl, rfl, rfl, rfl, cleared_clear _, ?_⟩
  simp [driven_host_of_readyInStep hy]

/-! ### The delivery port's levels -/

section
variable {s : State} (hp : s.blk.dlvPend = true)
include hp

/-- A header output shows its storage byte while DLV_PEND = 1 (R162). -/
theorem dlvField_of_pending (off : Nat) : s.dlvField off = s.memRead off := if_pos hp

/-- dlv_data shows the payload byte at dlv_addr within the length (R162). -/
theorem dlvData_of_pending {addr : Byte} (haddr : addr < s.blk.len) (hlen : s.blk.len ≤ s.maxPayload) :
    s.dlvData addr = s.memRead (payloadOffset addr.toNat) := by
  have hoff : s.hasOffset (payloadOffset addr.toNat) = true := (hasOffset_payloadOffset_iff _).2 (by bv_omega)
  exact if_pos (by simp [hp, haddr, hoff])

end

/-- Settles O16: the status levels are the block's fields, and while a delivery pends the port shows the storage. -/
theorem outputsShowTheDeliveryAndStatus : Obligations.OutputsShowTheDeliveryAndStatus :=
  fun _ => ⟨rfl, rfl, cmdReady_iff _, fun hp =>
    ⟨if_pos hp, dlvField_of_pending hp _, dlvField_of_pending hp _, dlvField_of_pending hp _, dlvField_of_pending hp _,
      dlvField_of_pending hp _, dlvData_of_pending hp⟩⟩

/-! ### INIT -/

/-- Settles O18: INIT is Clear() with two more fields of the block written. -/
theorem initClearsAndStoresTheContext : Obligations.InitClearsAndStoresTheContext :=
  fun ctx s => ⟨_, execInit_eq ctx s, ⟨rfl, rfl, fun _ => rfl⟩, rfl, rfl, rfl, rfl, rfl, rfl, rfl, rfl, rfl, rfl, rfl⟩

end Sys2Proof.Machine
end

section
/-! SUPPORT. Faults, waiting and several instances (60_exceptions.md): the decode fault of an accepted word, BLOCK's step with nothing to do,
the runs in which every step only drives, and what a step in a system of several instances writes. With them the statements of 60_exceptions.md
are settled. -/

namespace Sys2Proof.Machine

/-! ### Decode faults (R181 to R183) -/

theorem performWord_of_decode_error {w : CmdWord} {e : DecodeError} (h : decode w = .error e) (s : State) :
    performWord w s = .next (s.raiseFault (faultOfDecode e)) := by
  simp [performWord, h]

/-- Settles O10: the accepted word leaves the port and its decode fault is recorded; the code of each fault is R181's. -/
theorem stepRecordsDecodeFaults : Obligations.StepRecordsDecodeFaults := by
  intro s w ws e hm hr hpend hfault hh hdec
  have hstep : step s = .next (s.beginStep.consumeWord.raiseFault (faultOfDecode e)) :=
    (step_of_accepted hm hr ((cmdReady_iff _).2 ⟨hpend, hfault⟩) hh).trans (performWord_of_decode_error hdec _)
  refine ⟨_, hstep, congrArg List.tail hh, rfl, rfl, rfl, ?_, ?_⟩
  · rintro rfl; rfl
  · rintro rfl; rfl

/-! ### No stream byte raises a fault (R180) -/

/-- Settles O39: in the invariant FEED_BYTE completes, a live block stays live, and nothing outside the block is touched. -/
theorem noStreamByteRaisesAFault : Obligations.NoStreamByteRaisesAFault := by
  intro b s hinv hlive
  obtain ⟨t, ht⟩ := execFeedByte_completes hinv b
  have hlive' : t.Live := execFeedByte_live hlive ht
  have hout : sameOutside s t := execFeedByte_sameOutside ht
  exact ⟨t, ht, hlive', congrArg FaultCode.code hlive'.2, hout.events, hout.rsp⟩

/-! ### A recorded fault holds until RESET (R184, R185) -/

/-- Settles O45: a step with rst = 1 leaves the reset block, and every other step keeps a recorded fault. -/
theorem onlyResetClearsAFault : Obligations.OnlyResetClearsAFault := by
  intro s t h hf
  cases hr : s.rstInStep with
  | true =>
    obtain rfl := Host.Outcome.next.inj ((step_reset hr).symm.trans h)
    rfl
  | false => exact step_fault_of_faulted h hf hr

section
variable {s : State} (h : s.neverReset)
include h

/-- A schedule in which RESET never asserts rst leaves it low in the coming step. -/
theorem State.neverReset.rstInStep : s.rstInStep = false := by
  obtain ⟨hrst, hsched⟩ := h
  have hmove : s.nextMove ≠ .reset true := by
    unfold State.nextMove
    cases hs : s.sched with
    | nil => simp
    | cons m ms => rintro rfl; simp [hs] at hsched
  unfold State.rstInStep
  cases hm : s.nextMove with
  | reset l => simpa [hm] using hmove
  | block => exact hrst
  | host w => exact hrst
  | sink r a => exact hrst

theorem State.neverReset.driven : s.driven.neverReset := by
  refine ⟨s.driven_rst.trans h.rstInStep, fun hmem => h.2 ?_⟩
  rw [State.driven_sched] at hmem
  exact List.mem_of_mem_tail hmem

end

/-- Where a condition makes the step the drive alone and the drive keeps the condition, the block stands still for ever: no event is emitted
and no word on offer is accepted. -/
theorem runsTo_of_driven {P : State → Prop} (hP : ∀ s, P s → step s = .next s.driven ∧ P s.driven) (k : Nat) {s : State} (h : P s) :
    ∃ t more, runsTo k s t ∧ t.blk = s.blk ∧ t.events = s.events ∧ t.host = s.host ++ more := by
  induction k generalizing s with
  | zero => exact ⟨s, [], (runsTo_zero s s).2 rfl, rfl, rfl, by simp⟩
  | succ k ih =>
    obtain ⟨hstep, hnext⟩ := hP s h
    obtain ⟨first, hfirst⟩ := driven_host_grows s
    obtain ⟨t, rest, hrun, hblk, hevents, hhost⟩ := ih hnext
    refine ⟨t, first ++ rest, (runsTo_succ k s t).2 ⟨_, hstep, hrun⟩, hblk.trans s.driven_blk, hevents.trans s.driven_events, ?_⟩
    rw [hhost, hfirst, List.append_assoc]

/-- A fault is recorded, no delivery is pending and RESET stays quiet: the block is held (R183, R184). -/
structure State.FaultHeld (s : State) : Prop where
  faulted : s.blk.fault ≠ .none
  not_pending : s.blk.dlvPend = false
  neverReset : s.neverReset

theorem State.FaultHeld.only_drives {s : State} (h : s.FaultHeld) : step s = .next s.driven ∧ s.driven.FaultHeld := by
  have hrdy : s.blk.cmdReady = false := Bool.eq_false_iff.2 fun hrdy => h.faulted ((cmdReady_iff _).1 hrdy).2
  refine ⟨step_of_held hrdy h.neverReset.rstInStep fun hd => ?_, ?_, ?_, h.neverReset.driven⟩
  · simp [h.not_pending] at hd
  · simpa using h.faulted
  · simpa using h.not_pending

/-- Settles O50: a held block's step is the drive alone, and the drive leaves it held. -/
theorem faultHoldsUntilReset : Obligations.FaultHoldsUntilReset :=
  fun _ hf hd hn k => runsTo_of_driven (fun _ => State.FaultHeld.only_drives) k ⟨hf, hd, hn⟩

/-! ### BLOCK waits (R194, R211) -/

section
variable {s : State}

theorem step_of_block_low (hm : s.nextMove = .block) (hr : s.pins.rst = false) : step s = s.beginStep.transact :=
  (step_of_nextMove hm).trans (unlessReset_low (s := s.beginStep) hr _)

theorem transact_of_nothing_offered (ht : s.takeEnabled = false) (hh : s.host = []) : s.transact = .next s := by
  simp [State.transact, ht, hh]

end

/-- Settles O59: with nothing to take and nothing on offer BLOCK's step only begins. -/
theorem blockWaitsBetweenCommands : Obligations.BlockWaitsBetweenCommands := by
  intro s hm hr ht hh
  exact ⟨_, (step_of_block_low hm hr).trans (transact_of_nothing_offered (s := s.beginStep) ht hh), rfl, hh, rfl, rfl⟩

/-! ### Several instances (R192) -/

/-- Stepping place `k` of a system writes that place alone, and nothing where `k` names no place. -/
theorem stepInstance_cases {k : Nat} {sys sys' : List State} (h : stepInstance k sys = .next sys') :
    (sys[k]? = none ∧ sys' = sys) ∨ (∃ s t, sys[k]? = some s ∧ step s = .next t ∧ sys' = sys.set k t) := by
  unfold stepInstance at h
  cases hs : sys[k]? with
  | none => simp only [hs] at h; cases h; exact .inl ⟨rfl, rfl⟩
  | some s =>
    simp only [hs] at h
    cases ht : step s with
    | next t => simp only [ht] at h; cases h; exact .inr ⟨s, t, rfl, ht, rfl⟩
    | fault r => simp [ht] at h
    | refused r => simp [ht] at h

/-- Settles O51: the step writes place `k` of the list at most. -/
theorem instancesShareNoState : Obligations.InstancesShareNoState := by
  intro sys sys' k j h hjk
  obtain ⟨-, rfl⟩ | ⟨s, t, -, -, rfl⟩ := stepInstance_cases h
  · rfl
  · exact List.getElem?_set_ne hjk.symm

end Sys2Proof.Machine
end

section
/-! SUPPORT. Reset and hazards (70_reset_and_hazards.md): the delivery that is never taken, and the bytes that a frame can still take in. With
them the statements of 70_reset_and_hazards.md are settled. -/

namespace Sys2Proof.Machine

/-! ### A delivery that is never taken (R214) -/

section
variable {s : State} (h : s.neverReady)
include h

/-- A schedule in which SINK never asserts dlv_ready takes nothing in the coming step. -/
theorem State.neverReady.readyInStep : s.readyInStep = false := by
  obtain ⟨hready, hsched⟩ := h
  unfold State.readyInStep
  cases hm : s.nextMove with
  | block => exact hready
  | host w => rfl
  | reset l => rfl
  | sink r a =>
    unfold State.nextMove at hm
    cases hs : s.sched with
    | nil => simp [hs] at hm
    | cons m ms =>
      obtain rfl : m = .sink r a := by simpa [hs] using hm
      have hne := hsched a
      cases r with
      | false => rfl
      | true => simp [hs] at hne

/-- SINK's own step, which drives dlv_ready, leaves it low too. -/
theorem State.neverReady.driven : s.driven.neverReady := by
  refine ⟨?_, fun a hmem => h.2 a ?_⟩
  · have hstep := h.readyInStep
    unfold State.driven
    unfold State.readyInStep at hstep
    cases hm : s.nextMove with
    | sink r a => simpa [hm] using hstep
    | block => exact h.1
    | host w => exact h.1
    | reset l => exact h.1
  · rw [State.driven_sched] at hmem
    exact List.mem_of_mem_tail hmem

end

/-- A delivery is pending, SINK never takes it and RESET stays quiet: the block is stopped (R214). -/
structure State.DeliveryHeld (s : State) : Prop where
  pending : s.blk.dlvPend = true
  neverReset : s.neverReset
  neverReady : s.neverReady

theorem State.DeliveryHeld.only_drives {s : State} (h : s.DeliveryHeld) : step s = .next s.driven ∧ s.driven.DeliveryHeld := by
  have hrdy : s.blk.cmdReady = false := by simp [Block.cmdReady, h.pending]
  have hstep := step_of_held hrdy h.neverReset.rstInStep fun _ => h.neverReady.readyInStep
  exact ⟨hstep, by simpa using h.pending, h.neverReset.driven, h.neverReady.driven⟩

/-- Settles O49: with the delivery pending every step is the drive alone, and the drive leaves it pending. -/
theorem pendingDeliveryHoldsUntilTaken : Obligations.PendingDeliveryHoldsUntilTaken :=
  fun _ hd hreset hready k => runsTo_of_driven (fun _ => State.DeliveryHeld.only_drives) k ⟨hd, hreset, hready⟩

/-! ### The bytes that a frame can still take in (R135, R222) -/

/-- The most bytes that bring the receiver from a parse state back to EMPTY: the rest of the header, and a payload of the length that has
arrived or, before it has, of MAX_PAYLOAD. -/
def PState.bytesToEmpty (maxPayload len cnt : Nat) : PState → Nat
  | .gotStart => 4 + maxPayload
  | .gotType => 3 + maxPayload
  | .gotLength => 2 + len
  | .gotChecksumLo => 1 + len
  | .receivingPayload => len - cnt
  | .empty => 0
  | .gotComplete => 0
  | .code7 => 0

/-- The most bytes that bring the receiver back to EMPTY from where it stands. -/
def State.bytesToEmpty (s : State) : Nat :=
  s.blk.pstate.bytesToEmpty s.maxPayload.toNat s.blk.len.toNat s.blk.cnt.toNat

theorem bytesToEmpty_of_pstate {s : State} {p : PState} (hp : s.blk.pstate = p) :
    s.bytesToEmpty = p.bytesToEmpty s.maxPayload.toNat s.blk.len.toNat s.blk.cnt.toNat := by
  rw [State.bytesToEmpty, hp]

/-- A completed frame takes in no more bytes, whether it is presented or discarded (R132, R133). -/
theorem complete_bytesToEmpty (s : State) : s.complete.bytesToEmpty = 0 := by
  rcases complete_cases s with ⟨-, he⟩ | ⟨-, he⟩ <;> rw [he] <;> rfl

/-- Between two bytes of a stream: in the invariant, and ready for the next byte. -/
structure State.BetweenBytes (s : State) : Prop where
  inv : s.Inv
  live : s.Live
  not_pending : s.blk.dlvPend = false

section
variable {s t : State} {b : Byte}

/-- No valid length exceeds MAX_PAYLOAD, so no parse state needs more bytes than GOT_START (R124). -/
theorem State.BetweenBytes.bytesToEmpty_le (h : s.BetweenBytes) : s.bytesToEmpty ≤ 4 + s.maxPayload.toNat := by
  have hP := h.inv.parser h.live.1
  cases hp : s.blk.pstate <;> rw [bytesToEmpty_of_pstate hp] <;> simp only [PState.bytesToEmpty]
  case gotLength => obtain ⟨hle, -⟩ := hP.len_valid (.inl hp); bv_omega
  case gotChecksumLo => obtain ⟨hle, -⟩ := hP.len_valid (.inr hp); bv_omega
  case receivingPayload => obtain ⟨-, hle, -⟩ := hP.receiving hp; bv_omega
  all_goals omega

/-- Inside a frame every byte brings the receiver nearer to EMPTY (R135). -/
theorem execFeedByte_bytesToEmpty_lt (h : s.BetweenBytes) (hne : s.blk.pstate ≠ .empty) (ht : execFeedByte b s = .next t) :
    t.bytesToEmpty < s.bytesToEmpty := by
  have hwf := h.inv.mem_wf
  have hP := h.inv.parser h.live.1
  obtain ⟨hn, -⟩ | ⟨-, hrow⟩ := execFeedByte_cases ht
  · simp [h.live.1] at hn
  rcases hrow with ⟨hp, -⟩ | ⟨hp, rfl⟩ | ⟨hp, hT⟩ | ⟨hp, rfl⟩ | ⟨hp, hnext⟩ | ⟨hp, -, hnext⟩
  · have hd := hP.complete_iff_pending.1 (hp.resolve_left hne)
    simp [h.not_pending] at hd
  all_goals rw [bytesToEmpty_of_pstate hp]
  · show 3 + s.maxPayload.toNat < 4 + s.maxPayload.toNat
    omega
  · obtain ⟨hle, rfl⟩ | ⟨-, rfl⟩ := hT
    · have hlen : (s.memWrite lenOffset b).blk.len = b := by rw [len_memWrite hwf, if_pos rfl]
      show 2 + (s.memWrite lenOffset b).blk.len.toNat < 3 + s.maxPayload.toNat
      bv_omega
    · show 0 < 3 + s.maxPayload.toNat
      omega
  · have hlen : (s.memWrite ckloOffset b).blk.len = s.blk.len := len_memWrite_of_ne hwf b (by decide)
    show 1 + (s.memWrite ckloOffset b).blk.len.toNat < 2 + s.blk.len.toNat
    bv_omega
  · have hlen : (s.memWrite ckhiOffset b).blk.len = s.blk.len := len_memWrite_of_ne hwf b (by decide)
    obtain ⟨-, rfl⟩ | ⟨-, rfl⟩ := hnext
    · rw [complete_bytesToEmpty]
      show 0 < 1 + s.blk.len.toNat
      omega
    · show (s.memWrite ckhiOffset b).blk.len.toNat - s.blk.cnt.toNat < 1 + s.blk.len.toNat
      bv_omega
  · obtain ⟨-, -, hlt⟩ := hP.receiving hp
    obtain ⟨-, rfl⟩ | ⟨-, rfl⟩ := hnext
    · rw [complete_bytesToEmpty]
      show 0 < s.blk.len.toNat - s.blk.cnt.toNat
      bv_omega
    · have hlen : (s.storePayloadByte b).blk.len = s.blk.len := len_memWrite_of_ne hwf b (payloadOffset_ne (by decide) _).symm
      have hcnt := storePayloadByte_cnt_toNat b hlt
      change (s.storePayloadByte b).bytesToEmpty < _
      rw [bytesToEmpty_of_pstate (s := s.storePayloadByte b) hp]
      show (s.storePayloadByte b).blk.len.toNat - (s.storePayloadByte b).blk.cnt.toNat < s.blk.len.toNat - s.blk.cnt.toNat
      bv_omega

/-- Inside a frame the atomic feed completes, with the receiver ready for the next byte and nearer to EMPTY. -/
theorem State.BetweenBytes.feed_nearer_to_empty (h : s.BetweenBytes) (hne : s.blk.pstate ≠ .empty) (b : Byte) :
    ∃ u, feed b s = .next u ∧ u.BetweenBytes ∧ u.bytesToEmpty < s.bytesToEmpty := by
  obtain ⟨t, ht⟩ := execFeedByte_completes h.inv b
  have hinv : t.Inv := execFeedByte_inv h.inv ((cmdReady_iff _).2 ⟨h.not_pending, h.live.2⟩) ht
  have hlt := execFeedByte_bytesToEmpty_lt h hne ht
  cases hd : t.blk.dlvPend with
  | false => exact ⟨t, feed_of_not_pending ht hd, ⟨hinv, execFeedByte_live h.live ht, hd⟩, hlt⟩
  | true =>
    have htake := take_eq (hinv.len_le_of_pending hd)
    have hfeed := (feed_of_pending ht hd).trans htake
    obtain ⟨hlive, hnp⟩ := feed_keeps_live h.live hfeed
    exact ⟨_, hfeed, ⟨take_inv htake, hlive, hnp⟩, (Nat.zero_le _).trans_lt hlt⟩

end

/-- As many bytes as the parse state may still need bring the receiver to EMPTY on the way. -/
theorem State.BetweenBytes.feedChunk_reaches_empty {s : State} {bs : List Byte} (h : s.BetweenBytes)
    (hlen : s.bytesToEmpty ≤ bs.length) :
    ∃ n t, n ≤ bs.length ∧ feedChunk (bs.take n) s = .next t ∧ t.blk.pstate = .empty := by
  induction bs generalizing s with
  | nil =>
    refine ⟨0, s, le_rfl, rfl, by_contra fun hne => ?_⟩
    obtain ⟨_, -, -, hlt⟩ := h.feed_nearer_to_empty hne 0
    rw [List.length_nil] at hlen
    omega
  | cons b bs ih =>
    by_cases hp : s.blk.pstate = .empty
    · exact ⟨0, s, Nat.zero_le _, rfl, hp⟩
    obtain ⟨u, hfeed, hu, hlt⟩ := h.feed_nearer_to_empty hp b
    rw [List.length_cons] at hlen
    obtain ⟨n, t, hn, hchunk, ht⟩ := ih hu (by omega)
    exact ⟨n + 1, t, Nat.succ_le_succ hn, (feedChunk_cons hfeed).trans hchunk, ht⟩

/-- Settles O57: inside a frame each byte brings the receiver nearer to EMPTY, from at most 4 + MAX_PAYLOAD bytes away. -/
theorem aFrameEndsWithinItsBound : Obligations.AFrameEndsWithinItsBound := by
  intro s bs hinv hlive hd _ hlen
  have h : s.BetweenBytes := ⟨hinv, hlive, hd⟩
  exact h.feedChunk_reaches_empty (hlen ▸ h.bytesToEmpty_le)

end Sys2Proof.Machine
end
